-- ==== Sys2Proof/Word.lean ====
section
/-! DEFINITION. The word types of SDIO-CS (`00_scope.md` R11, R13; `20_memory.md` R61, R62). All arithmetic of the
block is unsigned; bit 0 is the least significant bit. -/

namespace Sys2Proof

/-- A 32-bit word: request words, response words, handle registers, FIFO words, flag words, host addresses (R62, R90). -/
abbrev Word := BitVec 32

/-- One byte of host buffer memory or of card register space (R61, R62). -/
abbrev Byte := BitVec 8

/-- One bit of an encoding or of a register. -/
abbrev Bit := BitVec 1

/-- A function number, 0 to 7; 0 is the control function (R11 `FN_MAX`). -/
abbrev Fn := BitVec 3

/-- A 17-bit card register address (R11 `ADDR_BITS`, R61). -/
abbrev RegAddr := BitVec 17

end Sys2Proof
end

