-- ==== Sys2Proof/Syntax.lean ====
section
/-! DEFINITION. The host requests of SDIO-CS, one constructor per row of `spec/opcode_table.json`, in the table's order,
with the operands of `30_encoding.md` R91 from the most significant field of `W0` down, then the later words. -/

namespace Sys2Proof

/-- A host request (R2, R92). -/
inductive Instr where
  /-- 0x01 `INIT`, format I (R160). -/
  | init (xcvr : Bit) (instanceId : Word)
  /-- 0x02 `DEINIT`, format N (R161). -/
  | deinit
  /-- 0x03 `SET_CONFIG`, format C (R170). -/
  | setConfig (cid hwfc psave edge : Bit) (width : BitVec 2) (hz : Word)
  /-- 0x04 `GET_CONFIG`, format N (R174). -/
  | getConfig
  /-- 0x05 `NOTIFY_REMOVAL`, format N (R176). -/
  | notifyRemoval
  /-- 0x06 `NOTIFY_INSERTION`, format C (R178). -/
  | notifyInsertion (cid hwfc psave edge : Bit) (width : BitVec 2) (hz : Word)
  /-- 0x07 `SET_BUS_WIDTH`, format V (R180). -/
  | setBusWidth (val : Word)
  /-- 0x08 `GET_BUS_WIDTH`, format N (R181). -/
  | getBusWidth
  /-- 0x09 `SET_CLOCK_FREQ`, format V (R183). -/
  | setClockFreq (val : Word)
  /-- 0x0A `GET_CLOCK_FREQ`, format N (R184). -/
  | getClockFreq
  /-- 0x0B `SET_BLOCK_SIZE`, format FV (R186). -/
  | setBlockSize (fn : Fn) (val : Word)
  /-- 0x0C `SET_SPEED_MODE`, format V (R192). -/
  | setSpeedMode (val : Word)
  /-- 0x0D `RESET_CARD`, format N (R193). -/
  | resetCard
  /-- 0x0E `SET_DATA_TIMEOUT`, format V (R189). -/
  | setDataTimeout (val : Word)
  /-- 0x0F `GET_DATA_TIMEOUT`, format N (R190). -/
  | getDataTimeout
  /-- 0x10 `READ_DIRECT`, format D, one word (R202). -/
  | readDirect (raw : Bit) (fn : Fn) (addr : RegAddr)
  /-- 0x11 `WRITE_DIRECT`, format D, two words (R203). -/
  | writeDirect (raw : Bit) (fn : Fn) (addr : RegAddr) (data : Byte)
  /-- 0x12 `READ_EXT`, format X, four words (R242). -/
  | readExt (bm opc : Bit) (fn : Fn) (addr : RegAddr) (buf size tmo : Word)
  /-- 0x13 `WRITE_EXT`, format X, four words (R243). -/
  | writeExt (bm opc : Bit) (fn : Fn) (addr : RegAddr) (buf size tmo : Word)
  /-- 0x14 `READ_EXT_DMA`, format X, three words (R250). -/
  | readExtDma (bm opc : Bit) (fn : Fn) (addr : RegAddr) (buf size : Word)
  /-- 0x15 `WRITE_EXT_DMA`, format X, three words (R251). -/
  | writeExtDma (bm opc : Bit) (fn : Fn) (addr : RegAddr) (buf size : Word)
  /-- 0x16 `IRQ_HANDLER`, format N (R340). -/
  | irqHandler
  /-- 0x17 `REG_CALLBACK`, format K (R296). -/
  | regCallback (fn : Fn) (sel : BitVec 4) (cb : Word)
  /-- 0x18 `GET_CCCR`, format N (R292). -/
  | getCccr
  /-- 0x19 `GET_FBR`, format F (R293). -/
  | getFbr (fn : Fn)
  /-- 0x1A `EN_FN_IRQ`, format F (R280). -/
  | enFnIrq (fn : Fn)
  /-- 0x1B `DIS_FN_IRQ`, format F (R281). -/
  | disFnIrq (fn : Fn)
  /-- 0x1C `EN_FN`, format F (R284). -/
  | enFn (fn : Fn)
  /-- 0x1D `DIS_FN`, format F (R285). -/
  | disFn (fn : Fn)
  /-- 0x1E `SEL_FN`, format F (R286). -/
  | selFn (fn : Fn)
  /-- 0x1F `ABORT_FN`, format F (R287). -/
  | abortFn (fn : Fn)
  /-- 0x20 `DLYB_CONFIG`, format V (R196). -/
  | dlybConfig (val : Word)
  /-- 0x21 `DLYB_CALIBRATE`, format N (R196). -/
  | dlybCalibrate
  deriving DecidableEq, Repr

end Sys2Proof
end

