-- ==== Sys2Proof/WellFormed.lean ====
section
/-! DEFINITION. Which requests are well formed: the operand values that R111 reserves. Field widths are in the types of
`Instr`; the must-be-zero bits of R91 are the decoder's. An ill-formed request still has a meaning: `ST_INVALID_PARAM`
(R111), which `exec` gives it. -/

namespace Sys2Proof

/-- `WIDTH = 0b11` never is a bus width (R42, R111). -/
def widthOk (width : BitVec 2) : Bool := width != 3

/-- `SEL` is at most 4; `FN` names a slot exactly when `SEL = 4` (R91 format K, R111). -/
def callbackOk (fn : Fn) (sel : BitVec 4) : Bool :=
  if sel = 4 then fn != 0 else decide (sel.toNat < 4) && fn == 0

/-- No operand has a value R111 reserves. -/
def Instr.wellFormed : Instr → Bool
  | .init _ _ => true
  | .deinit => true
  | .setConfig _ _ _ _ width _ => widthOk width
  | .getConfig => true
  | .notifyRemoval => true
  | .notifyInsertion _ _ _ _ width _ => widthOk width
  | .setBusWidth _ => true
  | .getBusWidth => true
  | .setClockFreq _ => true
  | .getClockFreq => true
  | .setBlockSize _ _ => true
  | .setSpeedMode _ => true
  | .resetCard => true
  | .setDataTimeout _ => true
  | .getDataTimeout => true
  | .readDirect _ _ _ => true
  | .writeDirect _ _ _ _ => true
  | .readExt _ _ _ _ _ _ _ => true
  | .writeExt _ _ _ _ _ _ _ => true
  | .readExtDma _ _ _ _ _ _ => true
  | .writeExtDma _ _ _ _ _ _ => true
  | .irqHandler => true
  | .regCallback fn sel _ => callbackOk fn sel
  | .getCccr => true
  | .getFbr _ => true
  | .enFnIrq _ => true
  | .disFnIrq _ => true
  | .enFn _ => true
  | .disFn _ => true
  | .selFn _ => true
  | .abortFn _ => true
  | .dlybConfig _ => true
  | .dlybCalibrate => true

end Sys2Proof
end

