-- ==== Sys2Proof/Decode.lean ====
section
/-! DEFINITION. Reading a request from the words at the host request port, and writing one (`30_encoding.md` R90 to R92,
R110 to R114). Decoding is total on any list of words. -/

namespace Sys2Proof

/-- What the words at the request port hold. -/
inductive Decoded where
  /-- Fewer words than the first request takes (or none): the block waits for the rest (R380). -/
  | waiting
  /-- Opcode 0x00 or 0x22 to 0xFF (R110), and the words after it. -/
  | reserved (rest : List Word)
  /-- A request of a defined opcode with a must-be-zero bit set (R111): the request its named fields give. -/
  | malformed (i : Instr) (rest : List Word)
  /-- A request, and the words after it. -/
  | instr (i : Instr) (rest : List Word)
  deriving DecidableEq, Repr

/-- `OP = W0[31:24]` (R90). -/
def opcodeOf (w0 : Word) : Nat := (w0.extractLsb' 24 8).toNat

/-- The number of words of a request with this opcode, the table of R92; 0 for a reserved opcode (R110). -/
def requestLength (op : Nat) : Nat :=
  match op with
  | 0x01 => 2 | 0x02 => 1 | 0x03 => 2 | 0x04 => 1 | 0x05 => 1 | 0x06 => 2 | 0x07 => 2 | 0x08 => 1
  | 0x09 => 2 | 0x0A => 1 | 0x0B => 2 | 0x0C => 2 | 0x0D => 1 | 0x0E => 2 | 0x0F => 1
  | 0x10 => 1 | 0x11 => 2 | 0x12 => 4 | 0x13 => 4 | 0x14 => 3 | 0x15 => 3 | 0x16 => 1 | 0x17 => 2
  | 0x18 => 1 | 0x19 => 1 | 0x1A => 1 | 0x1B => 1 | 0x1C => 1 | 0x1D => 1 | 0x1E => 1 | 0x1F => 1
  | 0x20 => 2 | 0x21 => 1
  | _ => 0

/-! ### Fields of the formats (R91) -/

/-- One bit of a request word. -/
def bitAt (w : Word) (n : Nat) : Bit := w.extractLsb' n 1
/-- `FN`, bits 19:17 of formats D, X, F, FV and K. -/
def fnField (w0 : Word) : Fn := w0.extractLsb' 17 3
/-- `ADDR`, bits 16:0 of formats D and X. -/
def addrField (w0 : Word) : RegAddr := w0.extractLsb' 0 17
/-- `WIDTH`, bits 1:0 of format C. -/
def widthField (w0 : Word) : BitVec 2 := w0.extractLsb' 0 2
/-- `SEL`, bits 3:0 of format K. -/
def selField (w0 : Word) : BitVec 4 := w0.extractLsb' 0 4
/-- `DATA`, bits 7:0 of `W1` of `WRITE_DIRECT`. -/
def dataField (w1 : Word) : Byte := w1.extractLsb' 0 8

/-- Format N and V: bits 23:0 must be 0. -/
def dirtyN (w0 : Word) : Bool := w0.extractLsb' 0 24 != 0
/-- Format I: bits 23:1 must be 0. -/
def dirtyI (w0 : Word) : Bool := w0.extractLsb' 1 23 != 0
/-- Format D: bits 23:21 must be 0. -/
def dirtyD (w0 : Word) : Bool := w0.extractLsb' 21 3 != 0
/-- Format D with data: bits 31:8 of `W1` must be 0 as well. -/
def dirtyData (w1 : Word) : Bool := w1.extractLsb' 8 24 != 0
/-- Format X: bits 23:22 must be 0. -/
def dirtyX (w0 : Word) : Bool := w0.extractLsb' 22 2 != 0
/-- Format C: bits 23:9 and 7:5 must be 0. -/
def dirtyC (w0 : Word) : Bool := w0.extractLsb' 9 15 != 0 || w0.extractLsb' 5 3 != 0
/-- Format F and FV: bits 23:20 and 16:0 must be 0. -/
def dirtyF (w0 : Word) : Bool := w0.extractLsb' 20 4 != 0 || w0.extractLsb' 0 17 != 0
/-- Format K: bits 23:20 and 16:4 must be 0. -/
def dirtyK (w0 : Word) : Bool := w0.extractLsb' 20 4 != 0 || w0.extractLsb' 4 13 != 0

/-- The request that four words (the later ones 0 where the opcode takes fewer) hold, with whether a must-be-zero bit is
set; none for a reserved opcode. The opcode map is R92, the fields R91. -/
def decodeFields (w0 w1 w2 w3 : Word) : Option (Bool × Instr) :=
  match opcodeOf w0 with
  | 0x01 => some (dirtyI w0, .init (bitAt w0 0) w1)
  | 0x02 => some (dirtyN w0, .deinit)
  | 0x03 => some (dirtyC w0, .setConfig (bitAt w0 8) (bitAt w0 4) (bitAt w0 3) (bitAt w0 2) (widthField w0) w1)
  | 0x04 => some (dirtyN w0, .getConfig)
  | 0x05 => some (dirtyN w0, .notifyRemoval)
  | 0x06 => some (dirtyC w0, .notifyInsertion (bitAt w0 8) (bitAt w0 4) (bitAt w0 3) (bitAt w0 2) (widthField w0) w1)
  | 0x07 => some (dirtyN w0, .setBusWidth w1)
  | 0x08 => some (dirtyN w0, .getBusWidth)
  | 0x09 => some (dirtyN w0, .setClockFreq w1)
  | 0x0A => some (dirtyN w0, .getClockFreq)
  | 0x0B => some (dirtyF w0, .setBlockSize (fnField w0) w1)
  | 0x0C => some (dirtyN w0, .setSpeedMode w1)
  | 0x0D => some (dirtyN w0, .resetCard)
  | 0x0E => some (dirtyN w0, .setDataTimeout w1)
  | 0x0F => some (dirtyN w0, .getDataTimeout)
  | 0x10 => some (dirtyD w0, .readDirect (bitAt w0 20) (fnField w0) (addrField w0))
  | 0x11 => some (dirtyD w0 || dirtyData w1, .writeDirect (bitAt w0 20) (fnField w0) (addrField w0) (dataField w1))
  | 0x12 => some (dirtyX w0, .readExt (bitAt w0 21) (bitAt w0 20) (fnField w0) (addrField w0) w1 w2 w3)
  | 0x13 => some (dirtyX w0, .writeExt (bitAt w0 21) (bitAt w0 20) (fnField w0) (addrField w0) w1 w2 w3)
  | 0x14 => some (dirtyX w0, .readExtDma (bitAt w0 21) (bitAt w0 20) (fnField w0) (addrField w0) w1 w2)
  | 0x15 => some (dirtyX w0, .writeExtDma (bitAt w0 21) (bitAt w0 20) (fnField w0) (addrField w0) w1 w2)
  | 0x16 => some (dirtyN w0, .irqHandler)
  | 0x17 => some (dirtyK w0, .regCallback (fnField w0) (selField w0) w1)
  | 0x18 => some (dirtyN w0, .getCccr)
  | 0x19 => some (dirtyF w0, .getFbr (fnField w0))
  | 0x1A => some (dirtyF w0, .enFnIrq (fnField w0))
  | 0x1B => some (dirtyF w0, .disFnIrq (fnField w0))
  | 0x1C => some (dirtyF w0, .enFn (fnField w0))
  | 0x1D => some (dirtyF w0, .disFn (fnField w0))
  | 0x1E => some (dirtyF w0, .selFn (fnField w0))
  | 0x1F => some (dirtyF w0, .abortFn (fnField w0))
  | 0x20 => some (dirtyN w0, .dlybConfig w1)
  | 0x21 => some (dirtyN w0, .dlybCalibrate)
  | _ => none

/-- The first request of the words at the port. A reserved opcode takes one word (DESIGN CHOICE, log 5: R92 gives it no
length). -/
def decode (ws : List Word) : Decoded :=
  match ws with
  | [] => .waiting
  | w0 :: rest =>
    match requestLength (opcodeOf w0) with
    | 0 => .reserved rest
    | n + 1 =>
      if rest.length < n then .waiting
      else
        match decodeFields w0 (rest.getD 0 0) (rest.getD 1 0) (rest.getD 2 0) with
        | none => .reserved rest
        | some (dirty, i) => if dirty then .malformed i (rest.drop n) else .instr i (rest.drop n)

/-! ### The encoder -/

/-- `W0` of format N and V. -/
def wordN (op : Byte) : Word := op ++ (0 : BitVec 24)
/-- `W0` of format F and FV. -/
def wordF (op : Byte) (fn : Fn) : Word := op ++ (0 : BitVec 4) ++ fn ++ (0 : BitVec 17)
/-- `W0` of format D. -/
def wordD (op : Byte) (raw : Bit) (fn : Fn) (addr : RegAddr) : Word := op ++ (0 : BitVec 3) ++ raw ++ fn ++ addr
/-- `W0` of format X. -/
def wordX (op : Byte) (bm opc : Bit) (fn : Fn) (addr : RegAddr) : Word := op ++ (0 : BitVec 2) ++ bm ++ opc ++ fn ++ addr
/-- `W0` of format C. -/
def wordC (op : Byte) (cid hwfc psave edge : Bit) (width : BitVec 2) : Word :=
  op ++ (0 : BitVec 15) ++ cid ++ (0 : BitVec 3) ++ hwfc ++ psave ++ edge ++ width
/-- `W0` of format I. -/
def wordI (op : Byte) (xcvr : Bit) : Word := op ++ (0 : BitVec 23) ++ xcvr
/-- `W0` of format K. -/
def wordK (op : Byte) (fn : Fn) (sel : BitVec 4) : Word := op ++ (0 : BitVec 4) ++ fn ++ (0 : BitVec 13) ++ sel
/-- `W1` of `WRITE_DIRECT`. -/
def wordData (data : Byte) : Word := (0 : BitVec 24) ++ data

/-- The words of a request, from the formats of R91 and the opcodes of R92. -/
def encode : Instr → List Word
  | .init xcvr instanceId => [wordI 0x01 xcvr, instanceId]
  | .deinit => [wordN 0x02]
  | .setConfig cid hwfc psave edge width hz => [wordC 0x03 cid hwfc psave edge width, hz]
  | .getConfig => [wordN 0x04]
  | .notifyRemoval => [wordN 0x05]
  | .notifyInsertion cid hwfc psave edge width hz => [wordC 0x06 cid hwfc psave edge width, hz]
  | .setBusWidth val => [wordN 0x07, val]
  | .getBusWidth => [wordN 0x08]
  | .setClockFreq val => [wordN 0x09, val]
  | .getClockFreq => [wordN 0x0A]
  | .setBlockSize fn val => [wordF 0x0B fn, val]
  | .setSpeedMode val => [wordN 0x0C, val]
  | .resetCard => [wordN 0x0D]
  | .setDataTimeout val => [wordN 0x0E, val]
  | .getDataTimeout => [wordN 0x0F]
  | .readDirect raw fn addr => [wordD 0x10 raw fn addr]
  | .writeDirect raw fn addr data => [wordD 0x11 raw fn addr, wordData data]
  | .readExt bm opc fn addr buf size tmo => [wordX 0x12 bm opc fn addr, buf, size, tmo]
  | .writeExt bm opc fn addr buf size tmo => [wordX 0x13 bm opc fn addr, buf, size, tmo]
  | .readExtDma bm opc fn addr buf size => [wordX 0x14 bm opc fn addr, buf, size]
  | .writeExtDma bm opc fn addr buf size => [wordX 0x15 bm opc fn addr, buf, size]
  | .irqHandler => [wordN 0x16]
  | .regCallback fn sel cb => [wordK 0x17 fn sel, cb]
  | .getCccr => [wordN 0x18]
  | .getFbr fn => [wordF 0x19 fn]
  | .enFnIrq fn => [wordF 0x1A fn]
  | .disFnIrq fn => [wordF 0x1B fn]
  | .enFn fn => [wordF 0x1C fn]
  | .disFn fn => [wordF 0x1D fn]
  | .selFn fn => [wordF 0x1E fn]
  | .abortFn fn => [wordF 0x1F fn]
  | .dlybConfig val => [wordN 0x20, val]
  | .dlybCalibrate => [wordN 0x21]

/-! ### The table's numbering -/

/-- Word `k` of a request whose bits are `w`, bit 0 the least significant bit of the first word. -/
def wordOfBits (w k : Nat) : Word := BitVec.ofNat 32 (w / 2 ^ (32 * k))

/-- The words of the request whose bits are `w`, the bits from `nbits` up being 0: as many words as its opcode takes, one
for a reserved opcode. -/
def tableWords (nbits w : Nat) : List Word :=
  let bits := w % 2 ^ nbits
  let w0 := wordOfBits bits 0
  [w0, wordOfBits bits 1, wordOfBits bits 2, wordOfBits bits 3].take (max 1 (requestLength (opcodeOf w0)))

/-- The request the decoder reads from the bits `w`; none where it finds a reserved opcode or a must-be-zero bit set. -/
def decodeTableWord (nbits w : Nat) : Option Instr :=
  match decode (tableWords nbits w) with
  | .instr i _ => some i
  | _ => none

end Sys2Proof
end

