-- ==== Sys2Proof/Config.lean ====
section
/-! DEFINITION. What an implementation fixes (`00_scope.md` R11) and the free values: the answers and values the spec
leaves to the environment or leaves open. A free value is an opaque constant with no body, applied to the number of
free values drawn before it, so no proof can know it. -/

namespace Sys2Proof

/-- The model arguments of R11: fixed for one machine, read by the rules, written by none. They stand in `State` so that
every statement about every state is a statement about every choice of them. -/
structure Params where
  /-- `RCA_RETRY_MAX`, OPEN, at least 1 (D26). -/
  rcaRetryMax : Nat
  /-- `POWERUP_SETTLE_CYCLES`, 74 by default (D26). -/
  powerupSettleCycles : Nat
  /-- `IDENT_OCR_ARG`, 0 by default (D26). -/
  identOcrArg : Word
  /-- `WINDOW_BYTES`, 1 to 512, 512 by default (D14). -/
  windowBytes : Nat
  /-- `WINDOW_BLOCKS`, 1 to 511, 511 by default (D14). -/
  windowBlocks : Nat
  /-- `BLOCK_SIZE_MAX`, 2048 by default (D14). -/
  blockSizeMax : Nat
  /-- `DIV_BITS`, 10 by default (D28). -/
  divBits : Nat
  /-- `FN_READY_TIMEOUT_MS`, OPEN, at least 1 (D30). -/
  fnReadyTimeoutMs : Word
  /-- `POLL_OVERSIZE = refuse` (true, the spec's value) or `cap` (false) (D16). -/
  pollOversizeRefuse : Bool
  /-- `SET_BLOCK_SIZE_WRITES_CARD`, true by default (D29). -/
  setBlockSizeWritesCard : Bool
  /-- `CCCR_SNAPSHOT_LEN`, 23 by default (D31). -/
  cccrSnapshotLen : Nat
  /-- `FBR_SNAPSHOT_LEN`, 18 by default (D31). -/
  fbrSnapshotLen : Nat
  /-- `ABORT_WHILE_ACTIVE`, false by default (D35). -/
  abortWhileActive : Bool
  deriving DecidableEq, Repr

/-- The ranges R11 gives the arguments. -/
def Params.ok (p : Params) : Bool :=
  decide (1 ≤ p.rcaRetryMax) && decide (1 ≤ p.windowBytes) && decide (p.windowBytes ≤ 512) &&
  decide (1 ≤ p.windowBlocks) && decide (p.windowBlocks ≤ 511) && decide (1 ≤ p.fnReadyTimeoutMs.toNat) &&
  decide (p.divBits ≤ 32)

namespace Config

/-- The values of R11. DESIGN CHOICE (log 9): the two OPEN arguments take the values of the spec's own worked runs,
`RCA_RETRY_MAX = 3` (`95_test_vectors.md` P1) and `FN_READY_TIMEOUT_MS = 5` (V44-6). -/
def params : Params where
  rcaRetryMax := 3
  powerupSettleCycles := 74
  identOcrArg := 0
  windowBytes := 512
  windowBlocks := 511
  blockSizeMax := 2048
  divBits := 10
  fnReadyTimeoutMs := 5
  pollOversizeRefuse := true
  setBlockSizeWritesCard := true
  cccrSnapshotLen := 23
  fbrSnapshotLen := 18
  abortWhileActive := false

/-- `DEFAULT_CLOCK_HZ` (R11, R43). -/
def defaultClockHz : Word := 400000

/-- `RCA_RETRY_INTERVAL_MS` (R11). -/
def rcaRetryIntervalMs : Nat := 1

/-- `DMA_ALIGN` in bytes (R11, R71). -/
def dmaAlign : Nat := 4

/-- `BURST_BYTES`: 8 FIFO words of 4 bytes (R11). -/
def burstBytes : Nat := 32

/-- DESIGN CHOICE (log 8): what a byte of host memory that nothing has written reads as. -/
def blankByte : Byte := 0

/-! ### Free values -/

/-- Free: the protocol error code of a command whose answer is not scripted (R361). -/
opaque freeErr : Nat → Word
/-- Free: the response word of such a command; any value (`93_implementation_defined.md` U10). -/
opaque freeResp : Nat → Word
/-- Free: what the data path raises at an unscripted flag sample; any value (R363, U10). -/
opaque freeFlags : Nat → Word
/-- Free: by how many milliseconds an unscripted tick reading is later than the one before it, less than 2^31 (R352). -/
opaque freeTick : Nat → BitVec 31
/-- Free: the kernel clock in Hz at an unscripted reading (R360). -/
opaque freeClock : Nat → Word
/-- Free: a FIFO word popped when the environment has queued none; any value (R362, U10). -/
opaque freeFifo : Nat → Word
/-- Free: whether the transmit FIFO is full at an unscripted push (R362). -/
opaque freeFull : Nat → Bool
/-- Free: a byte of a read buffer the spec promises nothing of (R81, U11). -/
opaque freeByte : Nat → Byte
/-- Free: how many bytes of a failed polling read were moved (R81). -/
opaque freeCount : Nat → Nat
/-- Free: the default divider when `div_of(k, 400000)` does not fit `DIV_BITS` (no rule states it). -/
opaque freeDiv : Nat → Nat
/-- Free: the milliseconds of the power-up wait when the bus clock comes out as 0 Hz (no rule states it). -/
opaque freeDelay : Nat → Nat

end Config
end Sys2Proof
end

