-- ==== Sys2Proof/Machine/State.lean ====
section
/-! DEFINITION. The state of one SDIO-CS instance: the handle (`10_state.md`), the host buffer memory and the ports
(`20_memory.md`, `60_exceptions.md` section 6), and the environment behind the ports (`00_scope.md` R9 (d)). Plain data. -/

namespace Sys2Proof.Machine

/-! ### The handle -/

/-- `H.global_state` (R31). -/
inductive GlobalState where
  | reset
  | init
  | idle
  | active
  | cardRemoved
  deriving DecidableEq, Repr

/-- `H.ident_state` (R36). -/
inductive IdentState where
  | powerOff
  | voltageNegotiated
  | addressAssigned
  | selected
  deriving DecidableEq, Repr

/-- `H.cfg` (R42). `clockDiv` is held in 32 bits; the rules store a divider only after the `DIV_BITS` range check (R168). -/
structure Cfg where
  busWidth : BitVec 2
  clockEdge : Bit
  clockPowerSave : Bit
  hwFlowControl : Bit
  clockDiv : Word
  clockHz : Word
  deriving DecidableEq, Repr

/-- `H.cont_desc` (R29): the descriptor bits a continuation phase needs. -/
structure ContDesc where
  fn : Fn
  blockMode : Bit
  opCode : Bit
  deriving DecidableEq, Repr

/-- `H.fn_cb[1..7]` (R45): one callback identity per function 1 to 7, 0 being `NOOP`. -/
structure FnCb where
  cb1 : Word
  cb2 : Word
  cb3 : Word
  cb4 : Word
  cb5 : Word
  cb6 : Word
  cb7 : Word
  deriving DecidableEq, Repr

/-- The handle `H`: every register of `10_state.md` R21 to R46. -/
structure Handle where
  /-- `H.instance` (R21). -/
  instanceId : Word
  /-- `H.global_state` (R31). -/
  globalState : GlobalState
  /-- `H.context` (R33): bit 0 `CTX_RD`, bit 1 `CTX_WR`, bit 2 `CTX_EXT`, bit 3 `CTX_DMA`. -/
  context : BitVec 4
  /-- `H.ident_state` (R36). -/
  identState : IdentState
  /-- `H.block_size` (R22). -/
  blockSize : Word
  /-- `H.data_timeout_cycles` (R23). -/
  dataTimeoutCycles : Word
  /-- `H.transceiver_mode` (R24). -/
  transceiverMode : Bit
  /-- `H.last_error_codes` (R25). -/
  lastErrorCodes : Word
  /-- `H.remaining_data` (R26). -/
  remainingData : Word
  /-- `H.next_reg_addr` (R26). -/
  nextRegAddr : RegAddr
  /-- `H.next_data_addr` (R26). -/
  nextDataAddr : Word
  /-- `H.xfer_size` (R26). -/
  xferSize : Word
  /-- `H.p_xfer_buff` (R26). -/
  pXferBuff : Word
  /-- `H.cont_desc` (R29). -/
  contDesc : ContDesc
  /-- `H.fn_irq_count` (R28). -/
  fnIrqCount : BitVec 4
  /-- `H.fn_irq_mask` (R28). -/
  fnIrqMask : Byte
  /-- `H.cfg` (R42). -/
  cfg : Cfg
  /-- `H.cb_rx_complete` (R44); 0 is `NOOP`, here and in the other slots. -/
  cbRxComplete : Word
  /-- `H.cb_tx_complete` (R44). -/
  cbTxComplete : Word
  /-- `H.cb_error` (R44). -/
  cbError : Word
  /-- `H.cb_transceiver` (R44). -/
  cbTransceiver : Word
  /-- `H.fn_cb[1..7]` (R45). -/
  fnCb : FnCb
  /-- `H.irq_mask` (R46). -/
  irqMask : Word
  deriving DecidableEq, Repr

/-! ### The ports -/

/-- The direction of the data path (R226, R364): card to host, or host to card. -/
inductive Dir where
  | rd
  | wr
  deriving DecidableEq, Repr

/-- The mode of one phase (R223, R364). -/
inductive Mode where
  | byte
  | block
  deriving DecidableEq, Repr

/-- The kinds of event of R346. -/
inductive EventKind where
  | rxComplete
  | txComplete
  | error
  | fnIrq (fn : Nat)
  | transceiver
  deriving DecidableEq, Repr

/-- One record of the event port (R297, R346): kind, argument, callback identity held in the slot at the emit. -/
structure Event where
  kind : EventKind
  arg : Word
  callback : Word
  deriving DecidableEq, Repr

/-- One action on a port (R14, R360 to R368), as it appears in the port trace. -/
inductive PortAction where
  /-- `Cmd(idx, arg)` (R361). -/
  | cmd (idx : BitVec 6) (arg : Word)
  /-- `FifoRead()` (R362). -/
  | fifoRead
  /-- `FifoWrite(w)` (R362). -/
  | fifoWrite (w : Word)
  /-- `Flags()` (R363). -/
  | flags
  /-- `FlagClear(mask)` (R363). -/
  | flagClear (mask : Word)
  /-- `IrqEnable(mask)` (R46, R363). -/
  | irqEnable (mask : Word)
  /-- `IrqDisable(mask)` (R46, R363). -/
  | irqDisable (mask : Word)
  /-- `DPath.Config(timeout, len, bsz, dir, mode)` (R364). -/
  | dpathConfig (timeout len bsz : Word) (dir : Dir) (mode : Mode)
  /-- `DPath.Enable()` (R364). -/
  | dpathEnable
  /-- `DPath.Disable()` (R364). -/
  | dpathDisable
  /-- `Dma.Program(base, len)` (R365). -/
  | dmaProgram (base len : Word)
  /-- `Dma.Teardown()` (R365). -/
  | dmaTeardown
  /-- `Bus.Power(on)` (R366). -/
  | busPower (on : Bool)
  /-- `Bus.Config(width, edge, psave, hwfc, div)` (R366). -/
  | busConfig (width : BitVec 2) (edge psave hwfc : Bit) (div : Word)
  /-- `Bus.SdioOp(on)` (R366). -/
  | busSdioOp (on : Bool)
  /-- `ClockHz()` (R360). -/
  | clockHz
  /-- `Tick()` (R352). -/
  | tick
  /-- `DelayMs(n)` (R353). -/
  | delayMs (n : Nat)
  /-- `DelayCycles(n)` (R353). -/
  | delayCycles (n : Nat)
  /-- `emit E` (R346). -/
  | emit (e : Event)
  /-- `respond st, v`: the words of one response (R93). -/
  | respond (ws : List Word)
  deriving DecidableEq, Repr

/-- What the data-path port last was told (R364). -/
structure DPath where
  timeout : Word
  len : Word
  bsz : Word
  dir : Dir
  mode : Mode
  enabled : Bool
  deriving DecidableEq, Repr

/-- The one linear buffer the DMA engine is armed with (R365). -/
structure DmaBuf where
  base : Word
  len : Word
  deriving DecidableEq, Repr

/-- What the bus configuration port last was told (R366). -/
structure Bus where
  powered : Bool
  width : BitVec 2
  edge : Bit
  psave : Bit
  hwfc : Bit
  div : Word
  sdioOp : Bool
  deriving DecidableEq, Repr

/-! ### The environment -/

/-- The answer of one command (R361): the protocol error code and the response word. -/
structure CmdAnswer where
  err : Word
  resp : Word
  deriving DecidableEq, Repr

/-- One entry of the schedule of interruption points (R9, R15, R330): what the data path has raised by then, and whether the
platform takes the interrupt if the line is asserted. -/
structure IrqPoint where
  rises : Word
  taken : Bool
  deriving DecidableEq, Repr

/-- The environment behind the ports: what it will answer, oldest first. A port whose script has run out answers a free
value. Its fields are the model's, but for the flag word, the FIFO and the tick, which the spec names. -/
structure Env where
  /-- The flag word at this instant (R38, R40). The data path writes it at the interruption points and at the samples. -/
  flags : Word
  /-- What the data path has raised by each sample of the flags to come. -/
  flagScript : List Word
  /-- The answers of the commands to come. -/
  cmdScript : List CmdAnswer
  /-- The receive FIFO (R63): words not popped yet. -/
  fifoRx : List Word
  /-- The transmit FIFO (R63): words pushed and not lost. -/
  fifoTx : List Word
  /-- Whether the transmit FIFO is full at each push to come (R362). -/
  txFullScript : List Bool
  /-- The kernel clock at each query to come (R360). -/
  clockScript : List Word
  /-- The millisecond tick as last read (R352). -/
  tick : Word
  /-- Milliseconds of busy-wait since the tick was last read (R353). -/
  tickOwed : Nat
  /-- How much later each tick reading to come is than the one before it (R352). -/
  tickScript : List (BitVec 31)
  /-- The bytes the DMA engine will write to read buffers (R80, R365). -/
  dmaScript : List Byte
  /-- What happens at the interruption points to come (R9, R15). A point may take several invocations; the first entry that
  is not taken ends it. -/
  irqSchedule : List IrqPoint
  /-- What the callback of each event to come submits (R347, R399), in order; with the list at its end, nothing. An event
  whose slot holds `NOOP` has none (R297). DESIGN CHOICE (log 4): a callback submits whole, well-formed requests; one with a
  reserved opcode or a must-be-zero bit set is left out. -/
  callbackScript : List (List Instr)
  /-- How many iterations of one busy-wait the environment lets pass before the run counts as hung (R352). -/
  waitBudget : Nat
  /-- How many free values have been drawn. -/
  drawn : Nat
  deriving DecidableEq, Repr

/-- Host buffer memory (R62): (address, byte) pairs in the canonical form `Memory.wf`. -/
abbrev Memory := List Host.Cell

/-- The whole machine. -/
structure State where
  /-- The handle (R20). -/
  h : Handle
  /-- The model arguments (R11); no step writes them. -/
  params : Params
  /-- Host buffer memory (R62). -/
  mem : Memory
  /-- The words at the host request port, not consumed yet (R368). -/
  requests : List Word
  /-- The words of the last response on the host response port (R93, R368). -/
  response : List Word
  /-- Every port action so far, the newest first. -/
  trace : List PortAction
  /-- The data-path port (R364). -/
  dpath : DPath
  /-- The DMA port (R365). -/
  dma : Option DmaBuf
  /-- The bus configuration port (R366). -/
  bus : Bus
  /-- The environment (R9). -/
  env : Env
  deriving DecidableEq, Repr

/-! ### Reasons to stop -/

/-- Why a step ends in a fault. Each marks a run the spec gives no meaning; the model stops where the hardware might go
on, so each is safe. -/
inductive Fault where
  /-- `PumpShort`: the pump saw data-complete with bytes of the phase unmoved (R238, U3). Raised by `READ_EXT`, `WRITE_EXT`. Safe. -/
  | pumpShort
  /-- `SpuriousDataEnd`: a data-complete interrupt with no DMA context (R342, U4). Raised by the interrupt handler. Safe. -/
  | spuriousDataEnd
  /-- `ReentrantRequest`: a callback's request that passes the state check while a foreground request is unanswered (R398,
  R399, U6), or that the spec refuses there (log 4). Raised at an interruption point. Safe. -/
  | reentrantRequest
  /-- `stuck`: a busy-wait used up the environment's patience (R352, U5). Raised by the pump and the ready poll. Safe. -/
  | stuck
  deriving DecidableEq, Repr

/-- Why a request is refused. -/
inductive Refusal where
  /-- The request has no meaning in the model yet. Raised by `exec`. Safe. -/
  | notModelled (mnemonic : String)
  /-- `refuse(CustomIdentify)`: `CID = 1` (R112). Raised by `SET_CONFIG`, `NOTIFY_INSERTION`. Safe. -/
  | customIdentify
  /-- `refuse(NoSemantics)`: the spec gives the request no effect (R192, R193). Raised by `SET_SPEED_MODE`, `RESET_CARD`. Safe. -/
  | noSemantics
  /-- `refuse(OutOfScope)`: the delay line is a collaborator (R196). Raised by `DLYB_CONFIG`, `DLYB_CALIBRATE`. Safe. -/
  | outOfScope
  deriving DecidableEq, Repr

/-! ### Reset -/

/-- The handle at power-on (R50): `Reset` and `PowerOff` as the rule says; every other field is unspecified there and 0
here (DESIGN CHOICE, log 6). -/
def Handle.powerOn : Handle where
  instanceId := 0
  globalState := .reset
  context := 0
  identState := .powerOff
  blockSize := 0
  dataTimeoutCycles := 0
  transceiverMode := 0
  lastErrorCodes := 0
  remainingData := 0
  nextRegAddr := 0
  nextDataAddr := 0
  xferSize := 0
  pXferBuff := 0
  contDesc := ⟨0, 0, 0⟩
  fnIrqCount := 0
  fnIrqMask := 0
  cfg := ⟨0, 0, 0, 0, 0, 0⟩
  cbRxComplete := 0
  cbTxComplete := 0
  cbError := 0
  cbTransceiver := 0
  fnCb := ⟨0, 0, 0, 0, 0, 0, 0⟩
  irqMask := 0

/-- The environment before anything has happened: nothing scripted, so every answer is a free value, and no interrupt is
taken (DESIGN CHOICE, log 7: R381 gives the environment no reset value). -/
def Env.powerOn : Env where
  flags := 0
  flagScript := []
  cmdScript := []
  fifoRx := []
  fifoTx := []
  txFullScript := []
  clockScript := []
  tick := 0
  tickOwed := 0
  tickScript := []
  dmaScript := []
  irqSchedule := []
  callbackScript := []
  waitBudget := 18446744073709551616
  drawn := 0

/-- The machine at power-on (R50, R380): no request at the port, memory with nothing listed. -/
def State.reset : State where
  h := Handle.powerOn
  params := Config.params
  mem := []
  requests := []
  response := []
  trace := []
  dpath := ⟨0, 0, 0, .rd, .byte, false⟩
  dma := none
  bus := ⟨false, 0, 0, 0, 0, 0, false⟩
  env := Env.powerOn

end Sys2Proof.Machine
end

