-- ==== Sys2Proof/Machine/Flags.lean ====
section
/-! DEFINITION. The status flags and error bits, and every computation on them (`10_state.md` R38 to R40,
`43_extended_transfer.md` R236, `60_exceptions.md` R320, R322, R324). -/

namespace Sys2Proof.Machine

/-! ### Flags (R38) -/

/-- `FL_DCRCFAIL`, bit 1. -/
def flDcrcfail : Word := 0x00000002
/-- `FL_DTIMEOUT`, bit 3. -/
def flDtimeout : Word := 0x00000008
/-- `FL_TXUNDERR`, bit 4. -/
def flTxunderr : Word := 0x00000010
/-- `FL_RXOVERR`, bit 5. -/
def flRxoverr : Word := 0x00000020
/-- `FL_DATAEND`, bit 8. -/
def flDataend : Word := 0x00000100
/-- `FL_TXFIFOHE`, bit 14. -/
def flTxfifohe : Word := 0x00004000
/-- `FL_RXFIFOHF`, bit 15. -/
def flRxfifohf : Word := 0x00008000
/-- `FL_TXFIFOF`, bit 16. -/
def flTxfifof : Word := 0x00010000
/-- `FL_RXFIFOE`, bit 19. -/
def flRxfifoe : Word := 0x00080000
/-- `FL_SDIOIT`, bit 22. -/
def flSdioit : Word := 0x00400000

/-- `ERR_FLAGS` (R39). -/
def errFlags : Word := flDcrcfail ||| flDtimeout ||| flTxunderr ||| flRxoverr
/-- `TERMINAL_FLAGS` (R39). -/
def terminalFlags : Word := errFlags ||| flDataend
/-- `STATIC_FLAGS` (R39). -/
def staticFlags : Word := terminalFlags
/-- The flags that stay set until cleared (R40). -/
def stickyFlags : Word := terminalFlags ||| flSdioit

/-- `Flag(mask)` on a sample: some flag of the mask is set (R14, R363). -/
def flagSet (sample mask : Word) : Bool := sample &&& mask != 0

/-- The flag word at a sample (R40, R363): the sticky flags already set, and what the data path raises. Without the
"operation enabled" bit the data path does not raise `FL_SDIOIT` (R332). -/
def flagSample (held raised : Word) (sdioOp : Bool) : Word :=
  (held &&& stickyFlags) ||| (if sdioOp then raised else raised &&& ~~~flSdioit)

/-- `FlagClear(mask)` clears the sticky flags of the mask and no level flag (R39, R363). -/
def flagsCleared (held mask : Word) : Word := held &&& ~~~(mask &&& stickyFlags)

/-! ### Error bits (R320) -/

/-- `ERR_CMD_CRC`, bit 0. -/
def errCmdCrc : Word := 0x00000001
/-- `ERR_CMD_TIMEOUT`, bit 1. -/
def errCmdTimeout : Word := 0x00000002
/-- `ERR_ILLEGAL_CMD`, bit 2. -/
def errIllegalCmd : Word := 0x00000004
/-- `ERR_INTERNAL`, bit 3. -/
def errInternal : Word := 0x00000008
/-- `ERR_DATA_CRC`, bit 4. -/
def errDataCrc : Word := 0x00000010
/-- `ERR_DATA_TIMEOUT`, bit 5. -/
def errDataTimeout : Word := 0x00000020
/-- `ERR_RX_OVERRUN`, bit 6. -/
def errRxOverrun : Word := 0x00000040
/-- `ERR_TX_UNDERRUN`, bit 7. -/
def errTxUnderrun : Word := 0x00000080

/-- `CE_ILLEGAL_CMD` (R324). -/
def ceIllegalCmd : Word := 3

/-- `errmap` (R324), total on every protocol error code. -/
def errmap (err : Word) : Word :=
  if err = 0 then 0
  else if err = 1 then errCmdCrc
  else if err = 2 then errCmdTimeout
  else if err = ceIllegalCmd then errIllegalCmd
  else errInternal

/-- The error bits of a flag sample (R236): every error flag that is set gives its own bit. -/
def errorsOfFlags (sample : Word) : Word :=
  (if flagSet sample flDcrcfail then errDataCrc else 0) |||
  (if flagSet sample flDtimeout then errDataTimeout else 0) |||
  (if flagSet sample flRxoverr then errRxOverrun else 0) |||
  (if flagSet sample flTxunderr then errTxUnderrun else 0)

/-! ### Status codes (R322) -/

/-- `ST_OK`. -/
def stOk : Word := 0
/-- `ST_ERROR`. -/
def stError : Word := 1
/-- `ST_BUSY`. -/
def stBusy : Word := 2
/-- `ST_TIMEOUT`. -/
def stTimeout : Word := 3
/-- `ST_INVALID_PARAM`. -/
def stInvalidParam : Word := 4

/-! ### Contexts (R33) -/

/-- Nothing outstanding. -/
def ctxNone : BitVec 4 := 0b0000
/-- Polling read. -/
def ctxPollRead : BitVec 4 := 0b0101
/-- Polling write. -/
def ctxPollWrite : BitVec 4 := 0b0110
/-- DMA read. -/
def ctxDmaRead : BitVec 4 := 0b1101
/-- DMA write. -/
def ctxDmaWrite : BitVec 4 := 0b1110

/-- `CTX_RD`, bit 0. -/
def ctxIsRead (c : BitVec 4) : Bool := c.getLsbD 0
/-- `CTX_WR`, bit 1. -/
def ctxIsWrite (c : BitVec 4) : Bool := c.getLsbD 1
/-- `CTX_DMA`, bit 3. -/
def ctxIsDma (c : BitVec 4) : Bool := c.getLsbD 3

end Sys2Proof.Machine
end

