-- ==== Sys2Proof/Machine/Operands.lean ====
section
/-! DEFINITION. Operand forms and arithmetic that read no state: the bus command words (`30_encoding.md` R104 to R108),
the card register addresses (`20_memory.md` R64), FIFO packing (R66 to R68), divider arithmetic (`41_configuration.md`
R165 to R169) and the fragmentation plan (`43_extended_transfer.md` R221 to R229). -/

namespace Sys2Proof.Machine

/-! ### Bus command words -/

/-- Command index of go-idle (R100). -/
def cmdGoIdle : BitVec 6 := 0
/-- Command index of the operating-condition inquiry (R101). -/
def cmdOpCond : BitVec 6 := 5
/-- Command index of voltage-switch (R102). -/
def cmdVoltageSwitch : BitVec 6 := 11
/-- Command index of the relative-address-request (R103). -/
def cmdSendRca : BitVec 6 := 3
/-- Command index of card-select (R104). -/
def cmdSelect : BitVec 6 := 7
/-- Command index of the direct command, CMD52 (R105). -/
def cmdDirect : BitVec 6 := 52
/-- Command index of the extended command, CMD53 (R106). -/
def cmdExtended : BitVec 6 := 53

/-- `S18R`, the switch-to-1.8V request bit, bit 24 (R101). -/
def s18r : Word := 0x01000000

/-- `enc52` (R105): `RW`, `FN`, `RAW`, 0, `ADDR`, 0, `DATA` from bit 31 down. -/
def enc52 (rw : Bit) (fn : Fn) (raw : Bit) (addr : RegAddr) (data : Byte) : Word :=
  rw ++ fn ++ raw ++ (0 : Bit) ++ addr ++ (0 : Bit) ++ data

/-- `enc53` (R106): `RW`, `FN`, `BM`, `OPC`, `ADDR`, `COUNT` from bit 31 down. -/
def enc53 (rw : Bit) (fn : Fn) (bm opc : Bit) (addr : RegAddr) (count : BitVec 9) : Word :=
  rw ++ fn ++ bm ++ opc ++ addr ++ count

/-- The argument of card-select: the relative address in bits 31:16 (R104). -/
def selectArg (rca : BitVec 16) : Word := rca ++ (0 : BitVec 16)

/-- `NF` of a `Cmd(5)` response (R108). -/
def respFunctionCount (r : Word) : BitVec 3 := r.extractLsb' 28 3
/-- `C` of a `Cmd(5)` response (R108). -/
def respReady (r : Word) : Bool := r.getLsbD 31
/-- `S18A` of a `Cmd(5)` response (R108). -/
def resp18Accepted (r : Word) : Bool := r.getLsbD 24
/-- `RCA` of a `Cmd(3)` response (R108). -/
def respRca (r : Word) : BitVec 16 := r.extractLsb' 16 16
/-- `RDATA` of a `Cmd(52)` response (R108). -/
def respByte (r : Word) : Byte := r.extractLsb' 0 8

/-! ### Card registers (R64), all in function 0 -/

/-- `CCCR_IO_ENABLE`. -/
def cccrIoEnable : RegAddr := 0x00002
/-- `CCCR_IO_READY`. -/
def cccrIoReady : RegAddr := 0x00003
/-- `CCCR_INT_ENABLE`. -/
def cccrIntEnable : RegAddr := 0x00004
/-- `CCCR_INT_PENDING`. -/
def cccrIntPending : RegAddr := 0x00005
/-- `CCCR_IO_ABORT`. -/
def cccrIoAbort : RegAddr := 0x00006
/-- `CCCR_BUS_IF`. -/
def cccrBusIf : RegAddr := 0x00007
/-- `CCCR_FN_SELECT`. -/
def cccrFnSelect : RegAddr := 0x0000D

/-- The base of function `fn`'s basic register area in function 0's space, `0x100 * fn` (R64, R293). -/
def fbrBase (fn : Fn) : RegAddr := BitVec.ofNat 17 (0x100 * fn.toNat)
/-- `FBR_BLOCK_SIZE(fn)`, low byte, then high byte (R64, R69). -/
def fbrBlockSize (fn : Fn) : RegAddr := fbrBase fn + 0x10

/-- `1 << FN` in one byte (R280). -/
def fnBit (fn : Fn) : Byte := 1 <<< fn.toNat

/-- The byte written to the card for a host width code (R169). R42 lets only the codes 0, 1 and 2 occur; the code 3 is
rejected before this is used. -/
def cardWidth (w : BitVec 2) : Byte :=
  if w = 0 then 0x00 else if w = 1 then 0x02 else 0x03

/-- The functions whose bit is set, lowest first (R341). -/
def setBits (b : Byte) : List Nat := (List.range 8).filter fun i => b.getLsbD i

/-! ### FIFO words and bytes -/

/-- The bytes of a FIFO word, lowest address first (R66). -/
def wordBytes (w : Word) : List Byte :=
  [w.extractLsb' 0 8, w.extractLsb' 8 8, w.extractLsb' 16 8, w.extractLsb' 24 8]

/-- The FIFO word of up to four bytes, absent bytes 0 (R68). -/
def packBytes (b : List Byte) : Word := b.getD 3 0 ++ b.getD 2 0 ++ b.getD 1 0 ++ b.getD 0 0

/-! ### Divider arithmetic -/

/-- `div_of(k, f) = k / (2 * f)`, exact, rounding down (R165). -/
def divOf (k f : Word) : Nat := k.toNat / (2 * f.toNat)

/-- `freq_of(k, d)` (R166). -/
def freqOf (k d : Word) : Nat := if d.toNat = 0 then k.toNat / 2 else k.toNat / (2 * d.toNat)

/-- The divider fits `DIV_BITS` (R167). -/
def divFits (p : Params) (d : Nat) : Bool := decide (d < 2 ^ p.divBits)

/-- The least number of milliseconds of the power-up wait (R132): `ceil(cycles * 1000 / f)`. -/
def settleMs (cycles f : Nat) : Nat := (cycles * 1000 + (f - 1)) / f

/-! ### Fragmentation -/

/-- `pow2` (R221). -/
def pow2 (v : Word) : Bool := v != 0 && v &&& (v - 1) == 0

/-- `blocks(size, bs)` (R222). -/
def blocks (size bs : Word) : Nat := if pow2 bs then size.toNat / bs.toNat else 0

/-- One phase: its mode, the count field of its command, its length in bytes, and the block size given to the data path. -/
structure Phase where
  mode : Mode
  count : BitVec 9
  len : Nat
  bsz : Nat
  deriving DecidableEq, Repr

/-- `phase_plan(bm, rem, bs)` (R223, R225). -/
def phasePlan (p : Params) (bm : Bit) (rem bs : Word) : Phase :=
  if bm = 1 ∧ 1 ≤ blocks rem bs then
    let n := min (blocks rem bs) p.windowBlocks
    ⟨.block, BitVec.ofNat 9 n, n * bs.toNat, bs.toNat⟩
  else
    let len := min rem.toNat p.windowBytes
    ⟨.byte, BitVec.ofNat 9 len, len, len⟩

/-- The phases of a request that still has `rem` bytes to issue, at most `fuel` of them (R229). -/
def phaseList (p : Params) (bm : Bit) (bs : Word) : Nat → Word → List Phase
  | 0, _ => []
  | fuel + 1, rem =>
    if rem = 0 then []
    else
      let pl := phasePlan p bm rem bs
      pl :: phaseList p bm bs fuel (rem - BitVec.ofNat 32 pl.len)

/-- The `BM` bit of a phase's command is the phase's mode (R253). -/
def modeBit : Mode → Bit
  | .byte => 0
  | .block => 1

/-- The direction of a command's `RW` bit (R226). -/
def dirOf (rw : Bit) : Dir := if rw = 0 then .rd else .wr

/-- The register address at which the phase after one of `len` bytes starts (R227). -/
def nextReg (opc : Bit) (reg : RegAddr) (len : Nat) : RegAddr :=
  if opc = 1 then reg + BitVec.ofNat 17 len else reg

/-- The request checks (b), (c) and (d) of R224: `ST_INVALID_PARAM` when true. -/
def extOperandsBad (bm : Bit) (bs buf size : Word) : Bool :=
  size == 0 || (bm == 1 && blocks size bs == 0) || decide (2 ^ 32 < buf.toNat + size.toNat)

/-- The check (e) of R224, for the DMA operations. -/
def dmaMisaligned (buf : Word) : Bool := buf.toNat % Config.dmaAlign != 0

/-- The check (f) of R224, for the polling operations (R231). -/
def pollOversize (p : Params) (bm : Bit) (bs size : Word) : Bool :=
  p.pollOversizeRefuse && (phasePlan p bm size bs).len != size.toNat

/-! ### Codes the host sees (R31, R36, R42) -/

/-- The code of a global state (R31). -/
def GlobalState.code : GlobalState → BitVec 3
  | .reset => 0
  | .init => 1
  | .idle => 2
  | .active => 3
  | .cardRemoved => 4

/-- The code of an identification state (R36). -/
def IdentState.code : IdentState → BitVec 2
  | .powerOff => 0
  | .voltageNegotiated => 1
  | .addressAssigned => 2
  | .selected => 3

/-- `V0` of `GET_CONFIG`: `HWFC ++ PSAVE ++ EDGE ++ WIDTH` in bits 4:0 (R174). -/
def Cfg.word (c : Cfg) : Word :=
  (0 : BitVec 27) ++ c.hwFlowControl ++ c.clockPowerSave ++ c.clockEdge ++ c.busWidth

end Sys2Proof.Machine
end

