-- ==== Sys2Proof/Machine/Ops.lean ====
section
/-! DEFINITION. The named operations: host memory, handle updates, the ports, responses and errors, the legal-state
table, the phases of an extended transfer, and TAKING THE INTERRUPT, the block's one asynchronous trap (`60_exceptions.md`
section 3). Every meaning is built from these. -/

namespace Sys2Proof.Machine

/-! ### Host buffer memory (R62) -/

/-- One byte of memory; an unlisted address reads as `Config.blankByte`. -/
def Memory.read : Memory → Nat → Byte
  | [], _ => Config.blankByte
  | (c, v) :: m, a => if c = a then v else Memory.read m a

/-- Write one byte and keep the canonical form. -/
def Memory.write : Memory → Nat → Byte → Memory
  | [], a, b => if b = Config.blankByte then [] else [(a, b)]
  | (c, v) :: m, a, b =>
    if a < c then (if b = Config.blankByte then (c, v) :: m else (a, b) :: (c, v) :: m)
    else if a = c then (if b = Config.blankByte then m else (a, b) :: m)
    else (c, v) :: Memory.write m a b

/-- The canonical form: addresses below 2^32 and strictly rising, no entry equal to what an unlisted address reads as. -/
def Memory.wf : Memory → Bool
  | [] => true
  | (c, v) :: m => decide (c < 2 ^ 32) && v != Config.blankByte && m.all (fun e => decide (c < e.1)) && Memory.wf m

/-- `MemWrite(addr, n, v)` (R14), the address wrapping modulo 2^32 (R62). -/
def Memory.writeBytes : Memory → Word → List Byte → Memory
  | m, _, [] => m
  | m, a, b :: bs => Memory.writeBytes (m.write a.toNat b) (a + 1) bs

/-- `MemRead(addr, n)` (R14), the address wrapping modulo 2^32 (R62). -/
def Memory.readBytes (m : Memory) : Word → Nat → List Byte
  | _, 0 => []
  | a, n + 1 => m.read a.toNat :: Memory.readBytes m (a + 1) n

/-! ### Handle updates -/

/-- `H.global_state <- g`. -/
def Handle.withGlobal (h : Handle) (g : GlobalState) : Handle := { h with globalState := g }
/-- `H.context <- c`. -/
def Handle.withContext (h : Handle) (c : BitVec 4) : Handle := { h with context := c }
/-- `H.ident_state <- i`. -/
def Handle.withIdent (h : Handle) (i : IdentState) : Handle := { h with identState := i }
/-- `H.last_error_codes <- H.last_error_codes | code` (R25). -/
def Handle.orErrors (h : Handle) (code : Word) : Handle := { h with lastErrorCodes := h.lastErrorCodes ||| code }
/-- `H.last_error_codes <- 0` (R25). -/
def Handle.clearErrors (h : Handle) : Handle := { h with lastErrorCodes := 0 }
/-- `H.cfg <- c`. -/
def Handle.withCfg (h : Handle) (c : Cfg) : Handle := { h with cfg := c }
/-- `H.block_size <- v`. -/
def Handle.withBlockSize (h : Handle) (v : Word) : Handle := { h with blockSize := v }
/-- `H.data_timeout_cycles <- v`. -/
def Handle.withDataTimeout (h : Handle) (v : Word) : Handle := { h with dataTimeoutCycles := v }
/-- `H.irq_mask <- m` (R46). -/
def Handle.withIrqMask (h : Handle) (m : Word) : Handle := { h with irqMask := m }
/-- `H.fn_irq_mask` and `H.fn_irq_count` (R28). -/
def Handle.withFnIrq (h : Handle) (mask : Byte) (count : BitVec 4) : Handle :=
  { h with fnIrqMask := mask, fnIrqCount := count }
/-- `H.remaining_data <- v`. -/
def Handle.withRemaining (h : Handle) (v : Word) : Handle := { h with remainingData := v }
/-- `H.cont_desc <- d` (R29). -/
def Handle.withContDesc (h : Handle) (d : ContDesc) : Handle := { h with contDesc := d }
/-- The five continuation registers after a phase of `len` bytes has been planned (R252). -/
def Handle.withPhase (h : Handle) (reg : RegAddr) (buf rem : Word) (len : Nat) : Handle :=
  { h with
    xferSize := BitVec.ofNat 32 len
    pXferBuff := buf
    remainingData := rem - BitVec.ofNat 32 len
    nextDataAddr := buf + BitVec.ofNat 32 len
    nextRegAddr := nextReg h.contDesc.opCode reg len }

/-- The callback slot of function `i` (R45); no slot but 1 to 7. -/
def FnCb.get (c : FnCb) (i : Nat) : Word :=
  match i with
  | 1 => c.cb1
  | 2 => c.cb2
  | 3 => c.cb3
  | 4 => c.cb4
  | 5 => c.cb5
  | 6 => c.cb6
  | 7 => c.cb7
  | _ => 0

/-- `H.fn_cb[i] <- v` (R45, R296). -/
def FnCb.set (c : FnCb) (i : Nat) (v : Word) : FnCb :=
  match i with
  | 1 => { c with cb1 := v }
  | 2 => { c with cb2 := v }
  | 3 => { c with cb3 := v }
  | 4 => { c with cb4 := v }
  | 5 => { c with cb5 := v }
  | 6 => { c with cb6 := v }
  | 7 => { c with cb7 := v }
  | _ => c

/-- The default configuration with divider `d` (R43). -/
def Cfg.default (d : Word) : Cfg := ⟨0, 0, 0, 0, d, Config.defaultClockHz⟩

/-- What `INIT` writes (R51): every field, the default configuration having divider `d`. -/
def Handle.afterInit (instanceId : Word) (xcvr : Bit) (d : Word) : Handle :=
  { Handle.powerOn with
    instanceId := instanceId
    globalState := .init
    dataTimeoutCycles := 0xFFFFFFFF
    transceiverMode := xcvr
    cfg := Cfg.default d }

/-- What `DEINIT` writes (R52). -/
def Handle.afterDeinit (h : Handle) (d : Word) : Handle :=
  { Handle.afterInit h.instanceId 0 d with globalState := .reset }

/-! ### What the environment answers -/

/-- The answer of the next command (R361). -/
def Env.cmdAnswer (e : Env) : CmdAnswer :=
  match e.cmdScript with
  | a :: _ => a
  | [] => ⟨Config.freeErr e.drawn, Config.freeResp e.drawn⟩
/-- The environment after the next command. -/
def Env.afterCmd (e : Env) : Env :=
  match e.cmdScript with
  | _ :: r => { e with cmdScript := r }
  | [] => { e with drawn := e.drawn + 1 }

/-- What the data path raises at the next sample of the flags (R363). -/
def Env.raised (e : Env) : Word :=
  match e.flagScript with
  | f :: _ => f
  | [] => Config.freeFlags e.drawn
/-- The environment after the next sample of the flags: the flag word holds the sample (R40). -/
def Env.afterSample (e : Env) (sdioOp : Bool) : Env :=
  match e.flagScript with
  | _ :: r => { e with flagScript := r, flags := flagSample e.flags e.raised sdioOp }
  | [] => { e with drawn := e.drawn + 1, flags := flagSample e.flags e.raised sdioOp }

/-- The kernel clock at the next query (R360). -/
def Env.clock (e : Env) : Word :=
  match e.clockScript with
  | k :: _ => k
  | [] => Config.freeClock e.drawn
/-- The environment after the next clock query. -/
def Env.afterClock (e : Env) : Env :=
  match e.clockScript with
  | _ :: r => { e with clockScript := r }
  | [] => { e with drawn := e.drawn + 1 }

/-- How many milliseconds after the last tick reading the next one comes: what the environment says, but no less than the
busy-waits since (R353) and always less than 2^31 (R352). -/
def Env.tickStep (e : Env) : Nat :=
  let said := match e.tickScript with
    | d :: _ => d.toNat
    | [] => (Config.freeTick e.drawn).toNat
  max said (min e.tickOwed (2 ^ 31 - 1))
/-- The next tick reading (R352). -/
def Env.nextTick (e : Env) : Word := e.tick + BitVec.ofNat 32 e.tickStep
/-- The environment after the next tick reading. -/
def Env.afterTick (e : Env) : Env :=
  match e.tickScript with
  | _ :: r => { e with tickScript := r, tick := e.nextTick, tickOwed := 0 }
  | [] => { e with drawn := e.drawn + 1, tick := e.nextTick, tickOwed := 0 }

/-- The word the next FIFO read pops (R63, R362). -/
def Env.fifoWord (e : Env) : Word :=
  match e.fifoRx with
  | w :: _ => w
  | [] => Config.freeFifo e.drawn
/-- The environment after the next FIFO read. -/
def Env.afterFifoRead (e : Env) : Env :=
  match e.fifoRx with
  | _ :: r => { e with fifoRx := r }
  | [] => { e with drawn := e.drawn + 1 }

/-- Whether the transmit FIFO is full at the next push (R362). -/
def Env.fifoFull (e : Env) : Bool :=
  match e.txFullScript with
  | b :: _ => b
  | [] => Config.freeFull e.drawn
/-- The words in the transmit FIFO after a push; on a full FIFO the word is lost (R362). -/
def Env.pushed (e : Env) (w : Word) : List Word := if e.fifoFull then e.fifoTx else e.fifoTx ++ [w]
/-- The environment after the next FIFO write. -/
def Env.afterFifoWrite (e : Env) (w : Word) : Env :=
  match e.txFullScript with
  | _ :: r => { e with txFullScript := r, fifoTx := e.pushed w }
  | [] => { e with drawn := e.drawn + 1, fifoTx := e.pushed w }

/-- What the callback of the next event submits (R347). -/
def Env.submission (e : Env) : List Instr := e.callbackScript.headD []
/-- The environment after the callback of the next event. -/
def Env.afterCallback (e : Env) : Env := { e with callbackScript := e.callbackScript.tail }

/-- The next `n` bytes the DMA engine writes, and the environment after them (R80, R365, U11). -/
def Env.dmaBytes : Nat → Env → List Byte × Env
  | 0, e => ([], e)
  | n + 1, e =>
    match e.dmaScript with
    | b :: r => let (bs, e') := Env.dmaBytes n { e with dmaScript := r }; (b :: bs, e')
    | [] => let (bs, e') := Env.dmaBytes n { e with drawn := e.drawn + 1 }; (Config.freeByte e.drawn :: bs, e')

/-- `n` free bytes, and the environment after them (R81). -/
def Env.freeBytes : Nat → Env → List Byte × Env
  | 0, e => ([], e)
  | n + 1, e => let (bs, e') := Env.freeBytes n { e with drawn := e.drawn + 1 }; (Config.freeByte e.drawn :: bs, e')

/-! ### Sequences of port actions -/

/-- A piece of an operation (R15): it goes on with a value and a state, or it stops in a fault. -/
abbrev Act (α : Type) : Type := StateT State (Except Fault) α

/-- Change the state; no port action. -/
def upd (f : State → State) : Act Unit := fun s => .ok ((), f s)
/-- Change the handle; no port action. -/
def updH (f : Handle → Handle) : Act Unit := upd fun s => { s with h := f s.h }
/-- Stop in a fault. -/
def stop {α : Type} (f : Fault) : Act α := fun _ => .error f
/-- An interruption point followed by one port action (R15, R348). DESIGN CHOICE (log 3): R348 suspends the foreground
"between two of its port actions" and does not place the handler among the handle writes that stand between them; here it
runs after them, directly before the next action, but for `DIS_FN_IRQ` (`bookDisabled`). -/
def via {α : Type} (pt : Act Unit) (p : Act α) : Act α := do
  pt
  p
/-- No interruption point: inside the interrupt handler, which is not re-entrant (R347). -/
def noPoint : Act Unit := pure ()
/-- The state with one port action added to the trace. -/
def State.logged (s : State) (a : PortAction) : State := { s with trace := a :: s.trace }

/-! ### Ports (R360 to R366) -/

/-- `Cmd(idx, arg)` (R361). -/
def portCmd (idx : BitVec 6) (arg : Word) : Act CmdAnswer := fun s =>
  .ok (s.env.cmdAnswer, { s with env := s.env.afterCmd, trace := .cmd idx arg :: s.trace })
/-- `FifoRead()` (R362). -/
def portFifoRead : Act Word := fun s =>
  .ok (s.env.fifoWord, { s with env := s.env.afterFifoRead, trace := .fifoRead :: s.trace })
/-- `FifoWrite(w)` (R362). -/
def portFifoWrite (w : Word) : Act Unit := upd fun s =>
  { s with env := s.env.afterFifoWrite w, trace := .fifoWrite w :: s.trace }
/-- `Flags()` (R363): the flag word at this instant, with what the data path has raised by now. -/
def portFlags : Act Word := fun s =>
  .ok (flagSample s.env.flags s.env.raised s.bus.sdioOp,
    { s with env := s.env.afterSample s.bus.sdioOp, trace := .flags :: s.trace })
/-- `FlagClear(mask)` (R363). -/
def portFlagClear (mask : Word) : Act Unit := upd fun s =>
  { s with env := { s.env with flags := flagsCleared s.env.flags mask }, trace := .flagClear mask :: s.trace }
/-- `IrqEnable(mask)`, with its mirror (R46). -/
def portIrqEnable (mask : Word) : Act Unit := upd fun s =>
  { s with h := s.h.withIrqMask (s.h.irqMask ||| mask), trace := .irqEnable mask :: s.trace }
/-- `IrqDisable(mask)`, with its mirror (R46). -/
def portIrqDisable (mask : Word) : Act Unit := upd fun s =>
  { s with h := s.h.withIrqMask (s.h.irqMask &&& ~~~mask), trace := .irqDisable mask :: s.trace }
/-- `DPath.Config(timeout, len, bsz, dir, mode)` (R364). -/
def portDpathConfig (timeout len bsz : Word) (dir : Dir) (mode : Mode) : Act Unit := upd fun s =>
  { s with
    dpath := { timeout := timeout, len := len, bsz := bsz, dir := dir, mode := mode, enabled := s.dpath.enabled }
    trace := .dpathConfig timeout len bsz dir mode :: s.trace }
/-- `DPath.Enable()` (R364). -/
def portDpathEnable : Act Unit := upd fun s =>
  { s with dpath := { s.dpath with enabled := true }, trace := .dpathEnable :: s.trace }
/-- `DPath.Disable()` (R364). -/
def portDpathDisable : Act Unit := upd fun s =>
  { s with dpath := { s.dpath with enabled := false }, trace := .dpathDisable :: s.trace }
/-- `Dma.Program(base, len)` (R365). -/
def portDmaProgram (base len : Word) : Act Unit := upd fun s =>
  { s with dma := some ⟨base, len⟩, trace := .dmaProgram base len :: s.trace }
/-- `Dma.Teardown()` (R365). -/
def portDmaTeardown : Act Unit := upd fun s => { s with dma := none, trace := .dmaTeardown :: s.trace }
/-- `Bus.Power(on)` (R366). -/
def portBusPower (on : Bool) : Act Unit := upd fun s =>
  { s with bus := { s.bus with powered := on }, trace := .busPower on :: s.trace }
/-- `Bus.Config(width, edge, psave, hwfc, div)` (R366). -/
def portBusConfig (width : BitVec 2) (edge psave hwfc : Bit) (div : Word) : Act Unit := upd fun s =>
  { s with
    bus := { s.bus with width := width, edge := edge, psave := psave, hwfc := hwfc, div := div }
    trace := .busConfig width edge psave hwfc div :: s.trace }
/-- `Bus.SdioOp(on)` (R366). -/
def portSdioOp (on : Bool) : Act Unit := upd fun s =>
  { s with bus := { s.bus with sdioOp := on }, trace := .busSdioOp on :: s.trace }
/-- `ClockHz()` (R360). -/
def portClockHz : Act Word := fun s =>
  .ok (s.env.clock, { s with env := s.env.afterClock, trace := .clockHz :: s.trace })
/-- `Tick()` (R352). -/
def portTick : Act Word := fun s =>
  .ok (s.env.nextTick, { s with env := s.env.afterTick, trace := .tick :: s.trace })
/-- `DelayMs(n)`: the tick will have advanced by at least `n` (R353). -/
def portDelayMs (n : Nat) : Act Unit := upd fun s =>
  { s with env := { s.env with tickOwed := s.env.tickOwed + n }, trace := .delayMs n :: s.trace }
/-- `DelayCycles(n)`, at least `ms` milliseconds at the bus clock as configured (R132, R353). -/
def portDelayCycles (n ms : Nat) : Act Unit := upd fun s =>
  { s with env := { s.env with tickOwed := s.env.tickOwed + ms }, trace := .delayCycles n :: s.trace }

/-! ### Responses and errors -/

/-- `respond st, v` (R93): the status word, then the value words. -/
def respond (st : Word) (vals : List Word) : Act Unit := upd fun s =>
  { s with response := st :: vals, trace := .respond (st :: vals) :: s.trace }

/-- `raise Err(code)` (R14): the code is accumulated and the request answered `ST_ERROR`. -/
def raiseErr (code : Word) : Act Unit := do
  updH (·.orErrors code)
  respond stError []

/-- The identity the slot of an event holds (R346). -/
def Handle.slot (h : Handle) : EventKind → Word
  | .rxComplete => h.cbRxComplete
  | .txComplete => h.cbTxComplete
  | .error => h.cbError
  | .fnIrq i => h.fnCb.get i
  | .transceiver => h.cbTransceiver

/-- The argument of an event (R346); 0 where it has none. -/
def Handle.eventArg (h : Handle) : EventKind → Word
  | .rxComplete => 0
  | .txComplete => 0
  | .error => h.lastErrorCodes
  | .fnIrq i => BitVec.ofNat 32 i
  | .transceiver => 1

/-! ### Legal states and refusals -/

/-- The legal global states of a request (R350); none for a refused request. -/
def legalStates (i : Instr) (s : State) : List GlobalState :=
  match i with
  | .init _ _ => [.reset]
  | .deinit => [.reset, .init, .idle, .active, .cardRemoved]
  | .setConfig _ _ _ _ _ _ => [.init, .idle]
  | .getConfig => [.idle, .active, .cardRemoved]
  | .notifyRemoval => [.init, .idle, .active, .cardRemoved]
  | .notifyInsertion _ _ _ _ _ _ => [.cardRemoved]
  | .setBusWidth _ => [.idle]
  | .getBusWidth => [.idle, .active, .cardRemoved]
  | .setClockFreq _ => [.idle]
  | .getClockFreq => [.idle, .active, .cardRemoved]
  | .setBlockSize _ _ => [.idle]
  | .setSpeedMode _ => []
  | .resetCard => []
  | .setDataTimeout _ => [.init, .idle, .cardRemoved]
  | .getDataTimeout => [.init, .idle, .active, .cardRemoved]
  | .readDirect _ _ _ => [.idle]
  | .writeDirect _ _ _ _ => [.idle]
  | .readExt _ _ _ _ _ _ _ => [.idle]
  | .writeExt _ _ _ _ _ _ _ => [.idle]
  | .readExtDma _ _ _ _ _ _ => [.idle]
  | .writeExtDma _ _ _ _ _ _ => [.idle]
  | .irqHandler => [.reset, .init, .idle, .active, .cardRemoved]
  | .regCallback _ _ _ => [.init, .idle, .cardRemoved]
  | .getCccr => [.idle]
  | .getFbr _ => [.idle]
  | .enFnIrq _ => [.idle]
  | .disFnIrq _ => [.idle]
  | .enFn _ => [.idle]
  | .disFn _ => [.idle]
  | .selFn _ => [.idle]
  | .abortFn _ => if s.params.abortWhileActive && ctxIsDma s.h.context then [.idle, .active] else [.idle]
  | .dlybConfig _ => []
  | .dlybCalibrate => []

/-- The state check (R323). -/
def accepts (i : Instr) (s : State) : Bool := decide (s.h.globalState ∈ legalStates i s)

/-- The requests that clear `H.last_error_codes` at their start: column E of R92. `ABORT_FN` from `Active` does not
(R288). -/
def clearsErrors (i : Instr) (s : State) : Bool :=
  match i with
  | .init _ _ => true
  | .deinit => true
  | .setConfig _ _ _ _ _ _ => true
  | .getConfig => false
  | .notifyRemoval => true
  | .notifyInsertion _ _ _ _ _ _ => true
  | .setBusWidth _ => true
  | .getBusWidth => false
  | .setClockFreq _ => true
  | .getClockFreq => false
  | .setBlockSize _ _ => true
  | .setSpeedMode _ => false
  | .resetCard => false
  | .setDataTimeout _ => false
  | .getDataTimeout => false
  | .readDirect _ _ _ => true
  | .writeDirect _ _ _ _ => true
  | .readExt _ _ _ _ _ _ _ => true
  | .writeExt _ _ _ _ _ _ _ => true
  | .readExtDma _ _ _ _ _ _ => true
  | .writeExtDma _ _ _ _ _ _ => true
  | .irqHandler => false
  | .regCallback _ _ _ => false
  | .getCccr => true
  | .getFbr _ => true
  | .enFnIrq _ => true
  | .disFnIrq _ => true
  | .enFn _ => true
  | .disFn _ => true
  | .selFn _ => true
  | .abortFn _ => decide (s.h.globalState = .idle)
  | .dlybConfig _ => false
  | .dlybCalibrate => false

/-- The requests the spec refuses (R112, R192, R193, R196). -/
def refusalOf (i : Instr) : Option Refusal :=
  match i with
  | .init _ _ => none
  | .deinit => none
  | .setConfig cid _ _ _ _ _ => if cid = 1 then some .customIdentify else none
  | .getConfig => none
  | .notifyRemoval => none
  | .notifyInsertion cid _ _ _ _ _ => if cid = 1 then some .customIdentify else none
  | .setBusWidth _ => none
  | .getBusWidth => none
  | .setClockFreq _ => none
  | .getClockFreq => none
  | .setBlockSize _ _ => none
  | .setSpeedMode _ => some .noSemantics
  | .resetCard => some .noSemantics
  | .setDataTimeout _ => none
  | .getDataTimeout => none
  | .readDirect _ _ _ => none
  | .writeDirect _ _ _ _ => none
  | .readExt _ _ _ _ _ _ _ => none
  | .writeExt _ _ _ _ _ _ _ => none
  | .readExtDma _ _ _ _ _ _ => none
  | .writeExtDma _ _ _ _ _ _ => none
  | .irqHandler => none
  | .regCallback _ _ _ => none
  | .getCccr => none
  | .getFbr _ => none
  | .enFnIrq _ => none
  | .disFnIrq _ => none
  | .enFn _ => none
  | .disFn _ => none
  | .selFn _ => none
  | .abortFn _ => none
  | .dlybConfig _ => some .outOfScope
  | .dlybCalibrate => some .outOfScope

/-- The outcome of a whole operation. -/
def finish (m : Act Unit) (s : State) : Host.Outcome State Fault Refusal :=
  match m s with
  | .ok (_, t) => .next t
  | .error f => .fault f

/-- One request (R327): refusal, then the state check (`ST_BUSY`, nothing changed: R323), then the clearing of the error
mask, then the operation's own checks and steps. -/
def request (i : Instr) (body : Act Unit) (s : State) : Host.Outcome State Fault Refusal :=
  match refusalOf i with
  | some r => .refused r
  | none =>
    if accepts i s then
      finish (do
        if clearsErrors i s then updH Handle.clearErrors
        body) s
    else finish (respond stBusy []) s

/-- A request of a defined opcode with a must-be-zero bit set (R111), in the order of checks of R327. -/
def answerMalformed (i : Instr) (s : State) : Host.Outcome State Fault Refusal := request i (respond stInvalidParam []) s

/-- A reserved opcode (R110): `ST_INVALID_PARAM`, no state change. -/
def answerReserved (s : State) : Host.Outcome State Fault Refusal := finish (respond stInvalidParam []) s

/-! ### Events and the requests of their callbacks (R297, R346, R347, R399) -/

/-- The foreground request itself holds `Active` (R399). Where a DMA request holds it, every terminal source is enabled from
the end of its first phase's arming to its end (R258), and no foreground operation has the DMA context then (R395; DEDUCED, log 4). -/
def foregroundHolds (s : State) : Bool :=
  decide (s.h.globalState = .active) && !(ctxIsDma s.h.context && s.h.irqMask &&& terminalFlags == terminalFlags)

/-- One request that a callback submits while a foreground request is unanswered (R398, R399). Where the foreground holds
`Active` it is answered `ST_BUSY`; elsewhere one that passes the state check is the fault `ReentrantRequest`, and one that
does not is answered `ST_BUSY`. DESIGN CHOICE (log 4): under `Active` no refusal is tested first; elsewhere a request the
spec refuses, which R327 would test before the state check, is the same fault, no rule saying what it does there; a
reserved opcode and a must-be-zero bit set do not occur here, a callback submitting well-formed requests alone. -/
def secondRequest (i : Instr) : Act Unit := fun s =>
  if foregroundHolds s then respond stBusy [] s
  else if (refusalOf i).isSome || accepts i s then .error .reentrantRequest
  else respond stBusy [] s

/-- The requests of one callback while a foreground request is unanswered, one after another. -/
def submitDuring : List Instr → Act Unit
  | [] => pure ()
  | i :: r => do
    secondRequest i
    submitDuring r

/-- The event's callback runs, and `submit` is done with the requests it makes. With `NOOP`, 0, in the slot the platform does
nothing (R297). -/
def runCallback (submit : List Instr → Act Unit) (k : EventKind) : Act Unit := do
  let s ← get
  if s.h.slot k = 0 then pure ()
  else
    upd fun s => { s with env := s.env.afterCallback }
    submit s.env.submission

/-- `emit E` (R297, R346): the slot and the argument are read at the emit; then the event's callback runs, before the next
event (DESIGN CHOICE, log 4). -/
def emit (submit : List Instr → Act Unit) (k : EventKind) : Act Unit := do
  upd fun s => s.logged (.emit ⟨k, s.h.eventArg k, s.h.slot k⟩)
  runCallback submit k

/-- The events of a list, in order. -/
def emitAll (submit : List Instr → Act Unit) : List EventKind → Act Unit
  | [] => pure ()
  | k :: ks => do
    emit submit k
    emitAll submit ks

/-! ### Card register access inside an operation (R117, R205) -/

/-- `RD52(fn, addr)`. -/
def rd52 (pt : Act Unit) (fn : Fn) (addr : RegAddr) : Act CmdAnswer := via pt (portCmd cmdDirect (enc52 0 fn 0 addr 0))

/-- `WR52(fn, addr, v)`. -/
def wr52 (pt : Act Unit) (fn : Fn) (addr : RegAddr) (v : Byte) : Act Word := do
  let a ← via pt (portCmd cmdDirect (enc52 1 fn 0 addr v))
  pure a.err

/-- `RMW52(fn, addr, clear, set)`: the write is sent only when the read succeeds. -/
def rmw52 (pt : Act Unit) (fn : Fn) (addr : RegAddr) (clear set : Byte) : Act Word := do
  let a ← rd52 pt fn addr
  if a.err = 0 then wr52 pt fn addr ((respByte a.resp &&& ~~~clear) ||| set)
  else pure a.err

/-! ### The default configuration -/

/-- The default divider `div_of(k, 400000)` (R43, R131, R171). DESIGN CHOICE (log 11): when it does not fit `DIV_BITS`,
which no rule covers, a free value of that width. -/
def defaultDiv (k : Word) : Act Word := fun s =>
  let d := divOf k Config.defaultClockHz
  let fits := divFits s.params d
  .ok (BitVec.ofNat 32 (if fits then d else Config.freeDiv s.env.drawn % 2 ^ s.params.divBits),
    { s with env := { s.env with drawn := s.env.drawn + if fits then 0 else 1 } })

/-! ### DMA data -/

/-- The DMA engine has written `n` bytes of the buffer of a DMA read from `H.p_xfer_buff` on (R80, R382, U11); a DMA write
changes no memory. -/
def landDma (n : Nat) : Act Unit := upd fun s =>
  if ctxIsDma s.h.context && ctxIsRead s.h.context then
    let r := s.env.dmaBytes n
    { s with mem := s.mem.writeBytes s.h.pXferBuff r.1, env := r.2 }
  else s

/-- Every byte of the request not known to be moved: the phase in flight and the phases not issued. -/
def Handle.unsettled (h : Handle) : Nat := h.xferSize.toNat + h.remainingData.toNat

/-- `if H.context[3] = 1 then Dma.Teardown()` (R161, R171, R343); the request is dropped, and of a read the buffer from the
phase in flight on holds any value (U11). -/
def dropDma (pt : Act Unit) : Act Unit := fun s =>
  if ctxIsDma s.h.context then
    (do
      via pt portDmaTeardown
      landDma s.h.unsettled : Act Unit) s
  else .ok ((), s)

/-! ### Phases of a DMA request -/

/-- `dma_abort(code)` (R254). -/
def dmaAbort (pt : Act Unit) (code : Word) : Act Unit := do
  via pt (portIrqDisable terminalFlags)
  via pt portDpathDisable
  via pt portDmaTeardown
  let s ← get
  landDma s.h.unsettled
  via pt (portFlagClear staticFlags)
  updH (·.orErrors code)
  updH (·.withRemaining 0)
  updH (·.withContext ctxNone)
  updH (·.withGlobal .idle)

/-- `start_phase(rw, reg, buf, rem)` (R253); true when the command succeeded. -/
def startPhase (pt : Act Unit) (rw : Bit) (reg : RegAddr) (buf rem : Word) : Act Bool := do
  let s ← get
  let pl := phasePlan s.params s.h.contDesc.blockMode rem s.h.blockSize
  updH (·.withPhase reg buf rem pl.len)
  via pt (portDpathConfig s.h.dataTimeoutCycles (BitVec.ofNat 32 pl.len) (BitVec.ofNat 32 pl.bsz) (dirOf rw) pl.mode)
  via pt (portDmaProgram buf (BitVec.ofNat 32 pl.len))
  via pt portDpathEnable
  let a ← via pt (portCmd cmdExtended
    (enc53 rw s.h.contDesc.fn (modeBit pl.mode) s.h.contDesc.opCode reg pl.count))
  if a.err = 0 then
    via pt (portIrqEnable terminalFlags)
    pure true
  else
    dmaAbort pt (errmap a.err)
    pure false

/-! ### Taking the interrupt (R340 to R348)

Entry saves nothing, masks nothing and changes no mode (R348); the return restores nothing (R347). What the entry does is
the handler's body. -/

/-- `dispatch()` (R341): the functions to call, lowest first. With the count 0 there is none; with the count 1, the fast
path, no register read. -/
def dispatch : Act (List Nat) := do
  let s ← get
  if s.h.fnIrqCount = 0 then pure []
  else if s.h.fnIrqCount = 1 then pure ((setBits s.h.fnIrqMask).take 1)
  else
    let a ← rd52 noPoint 0 cccrIntPending
    if a.err = 0 then pure (setBits (respByte a.resp &&& 0xFE))
    else
      updH (·.orErrors (errmap a.err))
      pure []

/-- `on_data_error(s)` (R343). -/
def onDataError (sample : Word) : Act Unit := do
  portIrqDisable terminalFlags
  portDpathDisable
  dropDma noPoint
  updH (·.orErrors (errorsOfFlags sample))
  updH (·.withRemaining 0)
  updH (·.withContext ctxNone)
  updH (·.withGlobal .idle)

/-- `on_data_complete()` (R255, R342): the event that ends the request, or none when a next phase has been started. -/
def onDataComplete : Act (Option EventKind) := do
  let s ← get
  if ctxIsDma s.h.context then
    portIrqDisable terminalFlags
    portDpathDisable
    portDmaTeardown
    landDma s.h.xferSize.toNat
    if s.h.remainingData = 0 then
      updH (·.withContext ctxNone)
      updH (·.withGlobal .idle)
      pure (some (if ctxIsRead s.h.context then .rxComplete else .txComplete))
    else
      let going ← startPhase noPoint (if ctxIsWrite s.h.context then 1 else 0) s.h.nextRegAddr s.h.nextDataAddr
        s.h.remainingData
      pure (if going then none else some .error)
  else stop .spuriousDataEnd

/-- The transfer part of the handler: an error wins over data-complete (R344 (a)). -/
def transferPart (sample : Word) : Act (Option EventKind) := do
  if flagSet sample errFlags then
    onDataError sample
    pure (some .error)
  else if flagSet sample flDataend then onDataComplete
  else pure none

/-- One invocation of `IRQ_HANDLER` up to its events (R340): one snapshot, every consumed flag cleared once, the dispatcher's
read, the transfer part. It gives the events, the function events first (R344 (c)); every handle write precedes them
(R79). -/
def serveInterrupt : Act (List EventKind) := do
  let s ← get
  if s.h.globalState = .reset then pure []
  else
    let f ← portFlags
    let sample := f &&& s.h.irqMask
    let consumed := sample &&& (terminalFlags ||| flSdioit)
    if consumed = 0 then pure []
    else
      portFlagClear consumed
      let fns ← if flagSet sample flSdioit then dispatch else pure []
      let ev ← transferPart sample
      pure (fns.map EventKind.fnIrq ++ ev.toList)

/-- One invocation of `IRQ_HANDLER` (R340), its events last. -/
def takeInterrupt (submit : List Instr → Act Unit) : Act Unit := do
  let evs ← serveInterrupt
  emitAll submit evs

/-- The interrupt request output (R47, R330): a flag of the flag word at this instant is enabled. What the data path raises
later, at the next interruption point or sample, is not in the word yet (log 13). -/
def irqLine (s : State) : Bool := s.env.flags &&& s.h.irqMask != 0

/-- At an interruption point: the data path writes the flag word (R363). A sticky flag stays set from here on until it is
cleared (R40); the "operation enabled" bit gates the raising of `FL_SDIOIT` alone (R332). -/
def State.atPoint (s : State) (q : IrqPoint) (rest : List IrqPoint) : State :=
  { s with env := { s.env with irqSchedule := rest, flags := flagSample s.env.flags q.rises s.bus.sdioOp } }

/-- The schedule's entries for one interruption point: invocations of the handler one after another (R344 (d), R347), each
taken only with the line asserted (R330), until an entry that lets the foreground go on. -/
def irqRun : List IrqPoint → Act Unit
  | [] => pure ()
  | q :: rest => do
    upd (·.atPoint q rest)
    if q.taken then
      let s ← get
      if irqLine s then takeInterrupt submitDuring
      irqRun rest

/-- An interruption point of a foreground operation (R15, R348): the platform may run the handler here. There is none before
a response (DESIGN CHOICE, log 3). -/
def irqPoint : Act Unit := fun s => irqRun s.env.irqSchedule s

/-! ### Ends of operations that hold `Active` -/

/-- `H.global_state <- Idle; raise Err(errmap(e))`. -/
def idleError (err : Word) : Act Unit := do
  updH (·.withGlobal .idle)
  raiseErr (errmap err)

/-- `H.global_state <- Idle; respond ST_OK, v`. -/
def idleOk (vals : List Word) : Act Unit := do
  updH (·.withGlobal .idle)
  respond stOk vals

end Sys2Proof.Machine
end

