-- ==== Sys2Proof/Machine/Direct.lean ====
section
/-! DEFINITION. The direct transfer engine (`42_direct_transfer.md`): `READ_DIRECT` and `WRITE_DIRECT`. -/

namespace Sys2Proof.Machine

/-- One direct command around which the handle is `Active` (R201); a read answers the byte, a write no value (R76). -/
def directBody (rw : Bit) (raw : Bit) (fn : Fn) (addr : RegAddr) (data : Byte) : Act Unit := do
  updH (·.withGlobal .active)
  let a ← via irqPoint (portCmd cmdDirect (enc52 rw fn raw addr data))
  if a.err = 0 then idleOk (if rw = 0 then [(respByte a.resp).setWidth 32] else [])
  else idleError a.err

/-- `READ_DIRECT` (R202). -/
def execReadDirect (raw : Bit) (fn : Fn) (addr : RegAddr) (s : State) : Host.Outcome State Fault Refusal :=
  request (.readDirect raw fn addr) (directBody 0 raw fn addr 0) s

/-- `WRITE_DIRECT` (R203). -/
def execWriteDirect (raw : Bit) (fn : Fn) (addr : RegAddr) (data : Byte) (s : State) :
    Host.Outcome State Fault Refusal :=
  request (.writeDirect raw fn addr data) (directBody 1 raw fn addr data) s

end Sys2Proof.Machine
end

