-- ==== Sys2Proof/Machine/Extended.lean ====
section
/-! DEFINITION. The extended transfer engine (`43_extended_transfer.md`): the FIFO pump and the four extended
operations. -/

namespace Sys2Proof.Machine

/-! ### The pump (R230 to R241) -/

/-- How the pump ended (R236, R237). -/
inductive PumpEnd where
  | complete
  | error
  | timeout
  deriving DecidableEq, Repr

/-- `FifoRead` and `MemWrite` of the first `k` bytes (R67). -/
def pumpInWord (p : Word) (k : Nat) : Act Unit := do
  let w ← via irqPoint portFifoRead
  upd fun s => { s with mem := s.mem.writeBytes p ((wordBytes w).take k) }

/-- `MemRead` of `k` bytes and `FifoWrite` of them packed (R68). -/
def pumpOutWord (p : Word) (k : Nat) : Act Unit := do
  let s ← get
  via irqPoint (portFifoWrite (packBytes (s.mem.readBytes p k)))

/-- So many whole words from the cursor on (the batch of R234). -/
def pumpBatch (word : Word → Nat → Act Unit) : Nat → Word → Act Unit
  | 0, _ => pure ()
  | n + 1, p => do
    word p 4
    pumpBatch word n (p + 4)

/-- What one iteration moves (R232 to R235): a batch of 8 words, one word, or nothing; the cursor and the bytes left after
it. `fast` is the threshold flag and `slow` says that a single word may cross. -/
def pumpMove (word : Word → Nat → Act Unit) (fast slow : Bool) (p : Word) (left : Nat) : Act (Word × Nat) := do
  if Config.burstBytes ≤ left ∧ fast = true then
    pumpBatch word 8 p
    pure (p + 32, left - 32)
  else if 0 < left ∧ left < Config.burstBytes ∧ slow = true then
    word p (min 4 left)
    pure (p + BitVec.ofNat 32 (min 4 left), left - min 4 left)
  else pure (p, left)

/-- Leaving the loop on flags (R236): an error whatever data-complete says; complete, or the fault `PumpShort` with bytes
unmoved (R238). -/
def pumpFlags (sample : Word) (left : Nat) : Act PumpEnd := do
  if flagSet sample errFlags then
    updH (·.orErrors (errorsOfFlags sample))
    pure .error
  else if left = 0 then pure .complete
  else stop .pumpShort

/-- The loop of `pump_read` and `pump_write` (R232, R233), within the environment's patience: sample, move, check the
time (R237). -/
def pumpLoop (word : Word → Nat → Act Unit) (fast slow : Word → Bool) (t0 tmo : Word) :
    Nat → Word → Nat → Act PumpEnd
  | 0, _, _ => stop .stuck
  | n + 1, p, left => do
    let f ← via irqPoint portFlags
    if flagSet f terminalFlags then pumpFlags f left
    else
      let m ← pumpMove word (fast f) (slow f) p left
      let now ← via irqPoint portTick
      if tmo.toNat ≤ (now - t0).toNat then
        updH (·.orErrors errDataTimeout)
        pure .timeout
      else pumpLoop word fast slow t0 tmo n m.1 m.2

/-- `pump_read(buf, len, tmo)` (R232). -/
def pumpRead (buf : Word) (len : Nat) (tmo : Word) : Act PumpEnd := do
  let t0 ← via irqPoint portTick
  let s ← get
  pumpLoop pumpInWord (fun f => flagSet f flRxfifohf) (fun f => !flagSet f flRxfifoe) t0 tmo s.env.waitBudget buf len

/-- `pump_write(buf, len, tmo)` (R233). -/
def pumpWrite (buf : Word) (len : Nat) (tmo : Word) : Act PumpEnd := do
  let t0 ← via irqPoint portTick
  let s ← get
  pumpLoop pumpOutWord (fun f => flagSet f flTxfifohe) (fun f => !flagSet f flTxfifof) t0 tmo s.env.waitBudget buf len

/-! ### Polling operations -/

/-- `FlagClear(STATIC_FLAGS)`, `DPath.Disable()`, back to `Idle` (R239, R242). -/
def pollCleanUp : Act Unit := do
  via irqPoint (portFlagClear staticFlags)
  via irqPoint portDpathDisable
  updH (·.withContext ctxNone)
  updH (·.withGlobal .idle)

/-- The response status of an end of the pump (R239). -/
def PumpEnd.status : PumpEnd → Word
  | .complete => stOk
  | .error => stError
  | .timeout => stTimeout

/-- The buffer of a polling read that was not answered `ST_OK` (R81): a prefix of free length holds free bytes, the rest of
the buffer is as it was at the request (`before`). -/
def unsettleRead (before : Memory) (buf : Word) (size : Nat) : Act Unit := upd fun s =>
  let n := Config.freeCount s.env.drawn % (size + 1)
  let r := Env.freeBytes n { s.env with drawn := s.env.drawn + 1 }
  { s with mem := s.mem.writeBytes buf (r.1 ++ (before.readBytes buf size).drop n), env := r.2 }

/-- The two polling operations (R242, R243): `failed` is what a status other than `ST_OK` leaves of a buffer of that many
bytes. -/
def pollBody (rw : Bit) (ctx : BitVec 4) (pump : Word → Nat → Word → Act PumpEnd) (failed : Nat → Act Unit)
    (bm opc : Bit) (fn : Fn) (addr : RegAddr) (buf size tmo : Word) : Act Unit := do
  let s ← get
  if extOperandsBad bm s.h.blockSize buf size || pollOversize s.params bm s.h.blockSize size then
    respond stInvalidParam []
  else
    let pl := phasePlan s.params bm size s.h.blockSize
    updH (·.withGlobal .active)
    updH (·.withContext ctx)
    via irqPoint
      (portDpathConfig s.h.dataTimeoutCycles (BitVec.ofNat 32 pl.len) (BitVec.ofNat 32 pl.bsz) (dirOf rw) pl.mode)
    via irqPoint portDpathEnable
    let a ← via irqPoint (portCmd cmdExtended (enc53 rw fn bm opc addr pl.count))
    if a.err = 0 then
      let o ← pump buf pl.len tmo
      pollCleanUp
      if o ≠ .complete then failed pl.len
      respond o.status []
    else
      updH (·.orErrors (errmap a.err))
      pollCleanUp
      failed pl.len
      respond stError []

/-- `READ_EXT` (R242). -/
def execReadExt (bm opc : Bit) (fn : Fn) (addr : RegAddr) (buf size tmo : Word) (s : State) :
    Host.Outcome State Fault Refusal :=
  request (.readExt bm opc fn addr buf size tmo)
    (pollBody 0 ctxPollRead pumpRead (unsettleRead s.mem buf) bm opc fn addr buf size tmo) s

/-- `WRITE_EXT` (R243). -/
def execWriteExt (bm opc : Bit) (fn : Fn) (addr : RegAddr) (buf size tmo : Word) (s : State) :
    Host.Outcome State Fault Refusal :=
  request (.writeExt bm opc fn addr buf size tmo)
    (pollBody 1 ctxPollWrite pumpWrite (fun _ => pure ()) bm opc fn addr buf size tmo) s

/-! ### DMA operations -/

/-- The two DMA operations (R250, R251): the first phase is armed and the handle left `Active`; later phases and the end
come with the interrupt (R255). -/
def dmaBody (rw : Bit) (ctx : BitVec 4) (bm opc : Bit) (fn : Fn) (addr : RegAddr) (buf size : Word) : Act Unit := do
  let s ← get
  if extOperandsBad bm s.h.blockSize buf size || dmaMisaligned buf then respond stInvalidParam []
  else
    updH (·.withGlobal .active)
    updH (·.withContext ctx)
    updH (·.withContDesc ⟨fn, bm, opc⟩)
    let going ← startPhase irqPoint rw addr buf size
    respond (if going then stOk else stError) []

/-- `READ_EXT_DMA` (R250). -/
def execReadExtDma (bm opc : Bit) (fn : Fn) (addr : RegAddr) (buf size : Word) (s : State) :
    Host.Outcome State Fault Refusal :=
  request (.readExtDma bm opc fn addr buf size) (dmaBody 0 ctxDmaRead bm opc fn addr buf size) s

/-- `WRITE_EXT_DMA` (R251). -/
def execWriteExtDma (bm opc : Bit) (fn : Fn) (addr : RegAddr) (buf size : Word) (s : State) :
    Host.Outcome State Fault Refusal :=
  request (.writeExtDma bm opc fn addr buf size) (dmaBody 1 ctxDmaWrite bm opc fn addr buf size) s

end Sys2Proof.Machine
end

