-- ==== Sys2Proof/Machine/Function.lean ====
section
/-! DEFINITION. IO function control and card metadata snapshots (`44_io_function_control.md`): opcodes 0x18 to 0x1F. Each
operation is a sequence of direct commands under `Active`. -/

namespace Sys2Proof.Machine

/-! ### Snapshots -/

/-- `RD52` of `n` registers from `addr` on, in rising order: the bytes read, or the first error (R292, R293). -/
def readRegs : Nat → RegAddr → Act (Except Word (List Byte))
  | 0, _ => pure (.ok [])
  | n + 1, addr => do
    let a ← rd52 irqPoint 0 addr
    if a.err = 0 then
      let r ← readRegs n (addr + 1)
      match r with
      | .ok bs => pure (.ok (respByte a.resp :: bs))
      | .error e => pure (.error e)
    else pure (.error a.err)

/-- The steps of the snapshots: on an error no value word is returned. -/
def snapshotBody (n : Nat) (addr : RegAddr) : Act Unit := do
  updH (·.withGlobal .active)
  let r ← readRegs n addr
  match r with
  | .ok bs => idleOk (bs.map (·.setWidth 32))
  | .error e => idleError e

/-- `GET_CCCR` (R292). -/
def execGetCccr (s : State) : Host.Outcome State Fault Refusal :=
  request .getCccr (snapshotBody s.params.cccrSnapshotLen 0) s

/-- `GET_FBR` (R293). -/
def execGetFbr (fn : Fn) (s : State) : Host.Outcome State Fault Refusal :=
  request (.getFbr fn)
    (if fn = 0 then respond stInvalidParam [] else snapshotBody s.params.fbrSnapshotLen (fbrBase fn)) s

/-! ### Function interrupts -/

/-- The byte `EN_FN_IRQ` writes back (R280): the function's bit, and the master enable on the first enable. -/
def enableByte (b : Byte) (fn : Fn) (count : BitVec 4) : Byte :=
  b ||| fnBit fn ||| (if count = 0 then 0x01 else 0)

/-- The bookkeeping of an enable: an enabled function is not counted twice (R280). -/
def Handle.enableFn (h : Handle) (fn : Fn) : Handle :=
  if h.fnIrqMask.getLsbD fn.toNat then h else h.withFnIrq (h.fnIrqMask ||| fnBit fn) (h.fnIrqCount + 1)

/-- The bookkeeping of a disable (R281). -/
def Handle.disableFn (h : Handle) (fn : Fn) : Handle :=
  if h.fnIrqMask.getLsbD fn.toNat then h.withFnIrq (h.fnIrqMask &&& ~~~fnBit fn) (h.fnIrqCount - 1) else h

/-- The steps of `EN_FN_IRQ` (R280): the card side first, only then the controller's line (R78). The handler may run before
the write-back and before the line's enable, and so after the count has been updated (DESIGN CHOICE, log 3). -/
def enFnIrqBody (fn : Fn) : Act Unit :=
  if fn = 0 then respond stInvalidParam []
  else do
    updH (·.withGlobal .active)
    let a ← rd52 irqPoint 0 cccrIntEnable
    if a.err = 0 then
      let s ← get
      let e ← wr52 irqPoint 0 cccrIntEnable (enableByte (respByte a.resp) fn s.h.fnIrqCount)
      if e = 0 then
        updH (·.enableFn fn)
        via irqPoint (portIrqEnable flSdioit)
        via irqPoint (portSdioOp true)
        idleOk []
      else idleError e
    else idleError a.err

/-- `EN_FN_IRQ` (R280). -/
def execEnFnIrq (fn : Fn) (s : State) : Host.Outcome State Fault Refusal :=
  request (.enFnIrq fn) (enFnIrqBody fn) s

/-- The bookkeeping of a disable, and the controller side, off only when no function is left (R281). There the handler may run
before the count becomes 0 and not between that and the disable of the line, because `FL_SDIOIT` is enabled only while the
count is at least 1 (R341; log 3). -/
def bookDisabled (fn : Fn) : Act Unit := do
  let s ← get
  if (s.h.disableFn fn).fnIrqCount = 0 then
    via irqPoint (updH (·.disableFn fn))
    portIrqDisable flSdioit
    via irqPoint (portSdioOp false)
  else updH (·.disableFn fn)

/-- The steps of `DIS_FN_IRQ` (R281): the master bit is left as read. -/
def disFnIrqBody (fn : Fn) : Act Unit :=
  if fn = 0 then respond stInvalidParam []
  else do
    updH (·.withGlobal .active)
    let a ← rd52 irqPoint 0 cccrIntEnable
    if a.err = 0 then
      let e ← wr52 irqPoint 0 cccrIntEnable (respByte a.resp &&& ~~~fnBit fn)
      if e = 0 then
        bookDisabled fn
        idleOk []
      else idleError e
    else idleError a.err

/-- `DIS_FN_IRQ` (R281). -/
def execDisFnIrq (fn : Fn) (s : State) : Host.Outcome State Fault Refusal :=
  request (.disFnIrq fn) (disFnIrqBody fn) s

/-! ### Function enable, select and abort -/

/-- The ready poll of `EN_FN` (R284), within the environment's patience: at least one ready read; the time is checked after
a read that is not ready. -/
def readyPoll (fn : Fn) (t0 : Word) : Nat → Act Unit
  | 0 => stop .stuck
  | n + 1 => do
    let a ← rd52 irqPoint 0 cccrIoReady
    if a.err = 0 then
      if (respByte a.resp).getLsbD fn.toNat then idleOk []
      else
        let now ← via irqPoint portTick
        let s ← get
        if s.params.fnReadyTimeoutMs.toNat ≤ (now - t0).toNat then
          updH (·.orErrors errInternal)
          updH (·.withGlobal .idle)
          respond stTimeout []
        else readyPoll fn t0 n
    else idleError a.err

/-- The steps of `EN_FN` (R284). -/
def enFnBody (fn : Fn) : Act Unit :=
  if fn = 0 then respond stInvalidParam []
  else do
    updH (·.withGlobal .active)
    let e ← rmw52 irqPoint 0 cccrIoEnable 0 (fnBit fn)
    if e = 0 then
      let t0 ← via irqPoint portTick
      let s ← get
      readyPoll fn t0 s.env.waitBudget
    else idleError e

/-- `EN_FN` (R284). -/
def execEnFn (fn : Fn) (s : State) : Host.Outcome State Fault Refusal := request (.enFn fn) (enFnBody fn) s

/-- One read-modify-write under `Active`, the whole of `DIS_FN`, `SEL_FN` and `ABORT_FN` (R285 to R287). -/
def rmwBody (addr : RegAddr) (clear set : Byte) : Act Unit := do
  updH (·.withGlobal .active)
  let e ← rmw52 irqPoint 0 addr clear set
  if e = 0 then idleOk [] else idleError e

/-- `DIS_FN` (R285). -/
def execDisFn (fn : Fn) (s : State) : Host.Outcome State Fault Refusal :=
  request (.disFn fn) (if fn = 0 then respond stInvalidParam [] else rmwBody cccrIoEnable (fnBit fn) 0) s

/-- `SEL_FN` (R286). -/
def execSelFn (fn : Fn) (s : State) : Host.Outcome State Fault Refusal :=
  request (.selFn fn) (rmwBody cccrFnSelect 0x0F (fn.setWidth 8)) s

/-- `ABORT_FN` from `Active` (R288, only with `ABORT_WHILE_ACTIVE = true`): the same two commands, none of the handle
writes. -/
def abortActiveBody (fn : Fn) : Act Unit := do
  let e ← rmw52 irqPoint 0 cccrIoAbort 0x07 (fn.setWidth 8)
  respond (if e = 0 then stOk else stError) []

/-- `ABORT_FN` (R287, R288). -/
def execAbortFn (fn : Fn) (s : State) : Host.Outcome State Fault Refusal :=
  request (.abortFn fn)
    (if s.h.globalState = .active then abortActiveBody fn else rmwBody cccrIoAbort 0x07 (fn.setWidth 8)) s

end Sys2Proof.Machine
end

