-- ==== Sys2Proof/Machine/Interrupt.lean ====
section
/-! DEFINITION. `IRQ_HANDLER` as a request, and the registration of its callbacks (`60_exceptions.md` R340,
`44_io_function_control.md` R296). -/

namespace Sys2Proof.Machine

/-- The handler injected through the request port: the same invocation, then `ST_OK` (R340). It is a foreground request that
does not hold `Active`, so what its callbacks submit is R398's case (R399). -/
def irqBody : Act Unit := do
  takeInterrupt submitDuring
  respond stOk []

/-- `IRQ_HANDLER` (R340). -/
def execIrqHandler (s : State) : Host.Outcome State Fault Refusal := request .irqHandler irqBody s

/-- `REG_CALLBACK` on the handle: the slot that `SEL` and `FN` name (R296). -/
def Handle.withCallback (h : Handle) (fn : Fn) (sel : BitVec 4) (cb : Word) : Handle :=
  match sel.toNat with
  | 0 => { h with cbRxComplete := cb }
  | 1 => { h with cbTxComplete := cb }
  | 2 => { h with cbError := cb }
  | 3 => { h with cbTransceiver := cb }
  | _ => { h with fnCb := h.fnCb.set fn.toNat cb }

/-- The steps of `REG_CALLBACK` (R296). -/
def regCallbackBody (fn : Fn) (sel : BitVec 4) (cb : Word) : Act Unit :=
  if callbackOk fn sel = false then respond stInvalidParam []
  else do
    updH (·.withCallback fn sel cb)
    respond stOk []

/-- `REG_CALLBACK` (R296). -/
def execRegCallback (fn : Fn) (sel : BitVec 4) (cb : Word) (s : State) : Host.Outcome State Fault Refusal :=
  request (.regCallback fn sel cb) (regCallbackBody fn sel cb) s

end Sys2Proof.Machine
end

