-- ==== Sys2Proof/Machine/Identify.lean ====
section
/-! DEFINITION. The card identification negotiator (`40_identification.md`): the sequence `IDENT` that runs inside
`SET_CONFIG` and `NOTIFY_INSERTION`. It answers true for `ok` and false for `fail(e)`. -/

namespace Sys2Proof.Machine

/-- `fail(e)` (R142). -/
def identFail (err : Word) : Act Bool := do
  updH (·.orErrors (errmap err))
  updH (·.withIdent .powerOff)
  updH (·.withGlobal .cardRemoved)
  pure false

/-- A command of the sequence and what follows its success; its failure is `fail(e)`. -/
def identCmd (idx : BitVec 6) (arg : Word) (next : Word → Act Bool) : Act Bool := do
  let a ← via irqPoint (portCmd idx arg)
  if a.err = 0 then next a.resp else identFail a.err

/-- The least length of the power-up wait in milliseconds (R132). DESIGN CHOICE (log 15): where the bus clock comes out as
0 Hz the rule states no length, and it is a free value. -/
def settleWait (k : Word) : Act Nat := fun s =>
  let f := freqOf k (BitVec.ofNat 32 (divOf k Config.defaultClockHz))
  .ok (if f = 0 then Config.freeDelay s.env.drawn else settleMs s.params.powerupSettleCycles f,
    { s with env := { s.env with drawn := s.env.drawn + if f = 0 then 1 else 0 } })

/-- Entry and step 1 (R131, R132): the bus in the default configuration, then powered. -/
def identPower (k : Word) : Act Unit := do
  updH (·.withIdent .powerOff)
  let d ← defaultDiv k
  via irqPoint (portBusConfig 0 0 0 0 d)
  updH (·.withCfg (Cfg.default d))
  via irqPoint (portBusPower true)
  let ms ← settleWait k
  let s ← get
  via irqPoint (portDelayCycles s.params.powerupSettleCycles ms)

/-- Step 3c (R136, R137): the voltage switch, and its event. The event port is a port (R368), and so the handler may run
between the command and the emit (DESIGN CHOICE, log 3). -/
def identVoltage (r2 : Word) (next : Act Bool) : Act Bool :=
  if respReady r2 && resp18Accepted r2 then
    identCmd cmdVoltageSwitch 0 fun _ => do
      let s ← get
      if s.h.transceiverMode = 1 then via irqPoint (emit submitDuring .transceiver)
      next
  else next

/-- Step 3b (R135): the second inquiry, only of a card that reports a function. -/
def identSecond (r : Word) (next : Act Bool) : Act Bool := do
  if respFunctionCount r = 0 then next
  else
    let s ← get
    identCmd cmdOpCond (s18r ||| s.params.identOcrArg) fun r2 => identVoltage r2 next

/-- Step 5 (R141): card-select; the relative address is then dropped (R37). -/
def identSelect (rca : BitVec 16) : Act Bool :=
  identCmd cmdSelect (selectArg rca) fun _ => do
    updH (·.withIdent .selected)
    pure true

/-- Step 4 (R139, R140): at most so many relative-address-requests, `DelayMs` between two of them. -/
def identRca : Nat → Act Bool
  | 0 => identFail ceIllegalCmd
  | n + 1 => do
    let a ← via irqPoint (portCmd cmdSendRca 0)
    if a.err = 0 then
      updH (·.withIdent .addressAssigned)
      identSelect (respRca a.resp)
    else if a.err ≠ ceIllegalCmd then identFail a.err
    else if n = 0 then identFail a.err
    else
      via irqPoint (portDelayMs Config.rcaRetryIntervalMs)
      identRca n

/-- Steps 3 end and 4 (R138, R139). -/
def identAddress : Act Bool := do
  updH (·.withIdent .voltageNegotiated)
  let s ← get
  identRca s.params.rcaRetryMax

/-- `IDENT` (R130 to R145) with the kernel clock `k` its caller read. -/
def ident (k : Word) : Act Bool := do
  identPower k
  identCmd cmdGoIdle 0 fun _ =>
    identCmd cmdOpCond 0 fun r => identSecond r identAddress

end Sys2Proof.Machine
end

