-- ==== Sys2Proof/Machine/Lifecycle.lean ====
section
/-! DEFINITION. Lifecycle and configuration operations (`41_configuration.md`): `INIT` to `GET_DATA_TIMEOUT`, opcodes 0x01
to 0x0F, and the delay-line entry points 0x20 and 0x21. -/

namespace Sys2Proof.Machine

/-- The six interrupt sources (R331). -/
def allSources : Word := terminalFlags ||| flSdioit

/-! ### Creation and destruction -/

/-- The steps of `INIT` (R160). -/
def initBody (xcvr : Bit) (instanceId : Word) : Act Unit := do
  via irqPoint (portIrqDisable allSources)
  via irqPoint (portFlagClear staticFlags)
  let k ← via irqPoint portClockHz
  let d ← defaultDiv k
  updH fun _ => Handle.afterInit instanceId xcvr d
  respond stOk []

/-- `INIT` (R160). -/
def execInit (xcvr : Bit) (instanceId : Word) (s : State) : Host.Outcome State Fault Refusal :=
  request (.init xcvr instanceId) (initBody xcvr instanceId) s

/-- The kernel clock of the default divider that `DEINIT` writes. DESIGN CHOICE (log 12): the rule reads no clock there
(R161, R360), so it is a free value. -/
def unreadClock : Act Word := fun s =>
  .ok (Config.freeClock s.env.drawn, { s with env := { s.env with drawn := s.env.drawn + 1 } })

/-- The steps of `DEINIT` (R161). -/
def deinitBody : Act Unit := do
  via irqPoint (portIrqDisable allSources)
  via irqPoint portDpathDisable
  dropDma irqPoint
  via irqPoint (portSdioOp false)
  via irqPoint (portBusPower false)
  via irqPoint (portFlagClear staticFlags)
  let k ← unreadClock
  let d ← defaultDiv k
  updH (·.afterDeinit d)
  respond stOk []

/-- `DEINIT` (R161). -/
def execDeinit (s : State) : Host.Outcome State Fault Refusal := request .deinit deinitBody s

/-! ### Configuration -/

/-- The checks of R167 on a target frequency, and what follows when they pass, given the kernel clock and the divider. -/
def withDivider (hz : Word) (next : Word → Word → Act Unit) : Act Unit := do
  let k ← via irqPoint portClockHz
  let s ← get
  if hz = 0 then respond stInvalidParam []
  else if divFits s.params (divOf k hz) = false then respond stInvalidParam []
  else if k = 0 then raiseErr errInternal
  else next k (BitVec.ofNat 32 (divOf k hz))

/-- `to_card_removed()` (R171). -/
def toCardRemoved : Act Unit := do
  via irqPoint (portIrqDisable allSources)
  via irqPoint portDpathDisable
  dropDma irqPoint
  via irqPoint (portSdioOp false)
  via irqPoint (portFlagClear staticFlags)
  let k ← via irqPoint portClockHz
  let d ← defaultDiv k
  via irqPoint (portBusConfig 0 0 0 0 d)
  updH (·.withCfg (Cfg.default d))
  updH (·.withContext ctxNone)
  updH (·.withRemaining 0)
  updH (·.withFnIrq 0 0)
  updH (·.withIdent .powerOff)
  updH (·.withGlobal .cardRemoved)

/-- The steps of `SET_CONFIG` and of `NOTIFY_INSERTION` (R170, R178). -/
def configure (hwfc psave edge : Bit) (width : BitVec 2) (hz : Word) : Act Unit :=
  if widthOk width = false then respond stInvalidParam []
  else
    withDivider hz fun k d => do
      let found ← ident k
      if found then
        via irqPoint (portBusConfig width edge psave hwfc d)
        updH (·.withCfg ⟨width, edge, psave, hwfc, d, hz⟩)
        let e ← wr52 irqPoint 0 cccrBusIf (cardWidth width)
        if e = 0 then idleOk []
        else
          updH (·.orErrors (errmap e))
          toCardRemoved
          respond stError []
      else respond stError []

/-- `SET_CONFIG` (R170). -/
def execSetConfig (cid hwfc psave edge : Bit) (width : BitVec 2) (hz : Word) (s : State) :
    Host.Outcome State Fault Refusal :=
  request (.setConfig cid hwfc psave edge width hz) (configure hwfc psave edge width hz) s

/-- `GET_CONFIG` (R174): a read-back, no port action. -/
def execGetConfig (s : State) : Host.Outcome State Fault Refusal :=
  request .getConfig (respond stOk [s.h.cfg.word, s.h.cfg.clockHz, s.h.cfg.clockDiv]) s

/-- The steps of `NOTIFY_REMOVAL` (R176). -/
def removalBody : Act Unit := do
  toCardRemoved
  respond stOk []

/-- `NOTIFY_REMOVAL` (R176). -/
def execNotifyRemoval (s : State) : Host.Outcome State Fault Refusal := request .notifyRemoval removalBody s

/-- `NOTIFY_INSERTION` (R178). -/
def execNotifyInsertion (cid hwfc psave edge : Bit) (width : BitVec 2) (hz : Word) (s : State) :
    Host.Outcome State Fault Refusal :=
  request (.notifyInsertion cid hwfc psave edge width hz) (configure hwfc psave edge width hz) s

/-! ### Single-parameter setters and getters -/

/-- The steps of `SET_BUS_WIDTH` (R180): the card first, so that a failure leaves both parties at the old width. -/
def setBusWidthBody (val : Word) : Act Unit :=
  if 2 < val.toNat then respond stInvalidParam []
  else do
    let w : BitVec 2 := val.extractLsb' 0 2
    updH (·.withGlobal .active)
    let e ← wr52 irqPoint 0 cccrBusIf (cardWidth w)
    if e = 0 then
      let s ← get
      via irqPoint (portBusConfig w s.h.cfg.clockEdge s.h.cfg.clockPowerSave s.h.cfg.hwFlowControl s.h.cfg.clockDiv)
      updH fun h => h.withCfg { h.cfg with busWidth := w }
      idleOk []
    else idleError e

/-- `SET_BUS_WIDTH` (R180). -/
def execSetBusWidth (val : Word) (s : State) : Host.Outcome State Fault Refusal :=
  request (.setBusWidth val) (setBusWidthBody val) s

/-- `GET_BUS_WIDTH` (R181). -/
def execGetBusWidth (s : State) : Host.Outcome State Fault Refusal :=
  request .getBusWidth (respond stOk [s.h.cfg.busWidth.setWidth 32]) s

/-- The steps of `SET_CLOCK_FREQ` (R183): no command, and `Idle` throughout. -/
def setClockFreqBody (val : Word) : Act Unit :=
  withDivider val fun _ d => do
    let s ← get
    via irqPoint
      (portBusConfig s.h.cfg.busWidth s.h.cfg.clockEdge s.h.cfg.clockPowerSave s.h.cfg.hwFlowControl d)
    updH fun h => h.withCfg { h.cfg with clockDiv := d, clockHz := val }
    respond stOk []

/-- `SET_CLOCK_FREQ` (R183). -/
def execSetClockFreq (val : Word) (s : State) : Host.Outcome State Fault Refusal :=
  request (.setClockFreq val) (setClockFreqBody val) s

/-- The steps of `GET_CLOCK_FREQ` (R184). -/
def getClockFreqBody : Act Unit := do
  let k ← via irqPoint portClockHz
  let s ← get
  respond stOk [BitVec.ofNat 32 (freqOf k s.h.cfg.clockDiv)]

/-- `GET_CLOCK_FREQ` (R184). -/
def execGetClockFreq (s : State) : Host.Outcome State Fault Refusal := request .getClockFreq getClockFreqBody s

/-- The card writes of `SET_BLOCK_SIZE` (R69, R186): low byte, then high byte; the first error, or 0. -/
def writeCardBlockSize (fn : Fn) (val : Word) : Act Word := do
  let e ← wr52 irqPoint 0 (fbrBlockSize fn) (val.extractLsb' 0 8)
  if e = 0 then wr52 irqPoint 0 (fbrBlockSize fn + 1) (val.extractLsb' 8 8)
  else pure e

/-- The steps of `SET_BLOCK_SIZE` (R186). -/
def setBlockSizeBody (fn : Fn) (val : Word) : Act Unit := do
  let s ← get
  if val = 0 ∨ s.params.blockSizeMax < val.toNat then respond stInvalidParam []
  else
    updH (·.withGlobal .active)
    let e ← if s.params.setBlockSizeWritesCard then writeCardBlockSize fn val else pure 0
    if e = 0 then
      updH (·.withBlockSize val)
      idleOk []
    else idleError e

/-- `SET_BLOCK_SIZE` (R186). -/
def execSetBlockSize (fn : Fn) (val : Word) (s : State) : Host.Outcome State Fault Refusal :=
  request (.setBlockSize fn val) (setBlockSizeBody fn val) s

/-- `SET_SPEED_MODE`: the spec gives it no effect and refuses it in every state (R192, R350). -/
def execSetSpeedMode (_val : Word) (_s : State) : Host.Outcome State Fault Refusal := .refused .noSemantics

/-- `RESET_CARD`: the spec gives it no effect and refuses it in every state (R193, R350). -/
def execResetCard (_s : State) : Host.Outcome State Fault Refusal := .refused .noSemantics

/-- The steps of `SET_DATA_TIMEOUT` (R189). -/
def setDataTimeoutBody (val : Word) : Act Unit := do
  updH (·.withDataTimeout val)
  respond stOk []

/-- `SET_DATA_TIMEOUT` (R189). -/
def execSetDataTimeout (val : Word) (s : State) : Host.Outcome State Fault Refusal :=
  request (.setDataTimeout val) (setDataTimeoutBody val) s

/-- `GET_DATA_TIMEOUT` (R190). -/
def execGetDataTimeout (s : State) : Host.Outcome State Fault Refusal :=
  request .getDataTimeout (respond stOk [s.h.dataTimeoutCycles]) s

/-! ### Delay line -/

/-- `DLYB_CONFIG`: the delay line is an external collaborator; refused (R7, R196). -/
def execDlybConfig (_val : Word) (_s : State) : Host.Outcome State Fault Refusal := .refused .outOfScope

/-- `DLYB_CALIBRATE`: the delay line is an external collaborator; refused (R7, R196). -/
def execDlybCalibrate (_s : State) : Host.Outcome State Fault Refusal := .refused .outOfScope

end Sys2Proof.Machine
end

