-- ==== Sys2Proof/Machine/Dispatch.lean ====
section
/-! DEFINITION. The meaning of every request, one arm per constructor of `Instr`, in the order of the opcode table. -/

namespace Sys2Proof.Machine

/-- The meaning of a request (R2). -/
def exec (i : Instr) (s : State) : Host.Outcome State Fault Refusal :=
  match i with
  | .init xcvr instanceId => Sys2Proof.Machine.execInit xcvr instanceId s
  | .deinit => Sys2Proof.Machine.execDeinit s
  | .setConfig cid hwfc psave edge width hz => Sys2Proof.Machine.execSetConfig cid hwfc psave edge width hz s
  | .getConfig => Sys2Proof.Machine.execGetConfig s
  | .notifyRemoval => Sys2Proof.Machine.execNotifyRemoval s
  | .notifyInsertion cid hwfc psave edge width hz => Sys2Proof.Machine.execNotifyInsertion cid hwfc psave edge width hz s
  | .setBusWidth val => Sys2Proof.Machine.execSetBusWidth val s
  | .getBusWidth => Sys2Proof.Machine.execGetBusWidth s
  | .setClockFreq val => Sys2Proof.Machine.execSetClockFreq val s
  | .getClockFreq => Sys2Proof.Machine.execGetClockFreq s
  | .setBlockSize fn val => Sys2Proof.Machine.execSetBlockSize fn val s
  | .setSpeedMode val => Sys2Proof.Machine.execSetSpeedMode val s
  | .resetCard => Sys2Proof.Machine.execResetCard s
  | .setDataTimeout val => Sys2Proof.Machine.execSetDataTimeout val s
  | .getDataTimeout => Sys2Proof.Machine.execGetDataTimeout s
  | .readDirect raw fn addr => Sys2Proof.Machine.execReadDirect raw fn addr s
  | .writeDirect raw fn addr data => Sys2Proof.Machine.execWriteDirect raw fn addr data s
  | .readExt bm opc fn addr buf size tmo => Sys2Proof.Machine.execReadExt bm opc fn addr buf size tmo s
  | .writeExt bm opc fn addr buf size tmo => Sys2Proof.Machine.execWriteExt bm opc fn addr buf size tmo s
  | .readExtDma bm opc fn addr buf size => Sys2Proof.Machine.execReadExtDma bm opc fn addr buf size s
  | .writeExtDma bm opc fn addr buf size => Sys2Proof.Machine.execWriteExtDma bm opc fn addr buf size s
  | .irqHandler => Sys2Proof.Machine.execIrqHandler s
  | .regCallback fn sel cb => Sys2Proof.Machine.execRegCallback fn sel cb s
  | .getCccr => Sys2Proof.Machine.execGetCccr s
  | .getFbr fn => Sys2Proof.Machine.execGetFbr fn s
  | .enFnIrq fn => Sys2Proof.Machine.execEnFnIrq fn s
  | .disFnIrq fn => Sys2Proof.Machine.execDisFnIrq fn s
  | .enFn fn => Sys2Proof.Machine.execEnFn fn s
  | .disFn fn => Sys2Proof.Machine.execDisFn fn s
  | .selFn fn => Sys2Proof.Machine.execSelFn fn s
  | .abortFn fn => Sys2Proof.Machine.execAbortFn fn s
  | .dlybConfig val => Sys2Proof.Machine.execDlybConfig val s
  | .dlybCalibrate => Sys2Proof.Machine.execDlybCalibrate s

end Sys2Proof.Machine
end

