-- ==== Sys2Proof/Machine/Fetch.lean ====
section
/-! DEFINITION. What one step of the machine does: the interrupt entry from the vector, or the next request at the request
port, or waiting (`00_scope.md` R9, `60_exceptions.md` R330, `70_reset_and_hazards.md` R380). -/

namespace Sys2Proof.Machine

/-- The next request at the port (R90, R368). With no whole request there the block waits (R380). -/
def runRequest (s : State) : Host.Outcome State Fault Refusal :=
  match decode s.requests with
  | .waiting => .next s
  | .reserved rest => answerReserved { s with requests := rest }
  | .malformed i rest => answerMalformed i { s with requests := rest }
  | .instr i rest => exec i { s with requests := rest }

/-- What a callback submits with no request outstanding is an ordinary request (R399): its words go to the request port. -/
def submitToPort (rs : List Instr) : Act Unit := upd fun s => { s with requests := s.requests ++ rs.flatMap encode }

/-- The interrupt entry from the vector, with no foreground request running: no response (R340). The words of the requests
its callbacks submit stand at the port in the order of the events, before the words that wait there (DESIGN CHOICE, log 4). -/
def vectorEntry (s : State) : Host.Outcome State Fault Refusal :=
  match takeInterrupt submitToPort { s with requests := [] } with
  | .error f => .fault f
  | .ok (_, t) => .next { t with requests := t.requests ++ s.requests }

/-- One step: at the interruption point before the next request the platform may take the interrupt, if the line is asserted
(R9, R15, R330); otherwise the next request runs whole. -/
def oneStep (s : State) : Host.Outcome State Fault Refusal :=
  match s.env.irqSchedule with
  | [] => runRequest s
  | q :: rest =>
    let s' := s.atPoint q rest
    if q.taken && irqLine s' then vectorEntry s' else runRequest s'

/-- The words of the request whose bits are `w` put before the words at the request port, with no interruption point
before it or in it. -/
def placeRequest (s : State) (nbits w : Nat) : State :=
  { s with requests := tableWords nbits w ++ s.requests, env := { s.env with irqSchedule := [] } }

end Sys2Proof.Machine
end

