-- ==== Sys2Proof/Machine/Step.lean ====
section
/-! DEFINITION. The step function, and a request placed where the step takes its next one. -/

namespace Sys2Proof.Machine

/-- One step of the machine. -/
def step (s : State) : Host.Outcome State Fault Refusal := oneStep s

/-- The state with a request, numbered as `spec/opcode_table.json` numbers its bits, next at the request port. -/
def State.withFetchWord (s : State) (nbits w : Nat) : State := placeRequest s nbits w

end Sys2Proof.Machine
end

