-- ==== Sys2Proof/Safety.lean ====
section
/-! DEFINITION. What counts as a sound state of the block between two requests: the invariants the spec states of the
handle, and the canonical form of memory. -/

namespace Sys2Proof.Machine

/-- The legal values of `H.context` (R33). -/
def legalContexts : List (BitVec 4) := [ctxNone, ctxPollRead, ctxPollWrite, ctxDmaRead, ctxDmaWrite]

/-- The configuration is the default one, whatever its divider (R43). -/
def Cfg.isDefault (c : Cfg) : Bool :=
  c.busWidth == 0 && c.clockEdge == 0 && c.clockPowerSave == 0 && c.hwFlowControl == 0 &&
  c.clockHz == Config.defaultClockHz

/-- The invariants of the handle between two requests. -/
structure Handle.Inv (h : Handle) : Prop where
  /-- Every other value of the context never occurs (R33). -/
  context_legal : h.context ∈ legalContexts
  /-- A context is outstanding only under `Active` (R34). -/
  context_active : h.context ≠ 0 → h.globalState = .active
  /-- Between requests `Active` means a DMA request in flight (R34). -/
  active_dma : h.globalState = .active → ctxIsDma h.context = true
  /-- `remaining_data` is non-zero only with the DMA bit (R27). -/
  remaining_dma : h.remainingData ≠ 0 → ctxIsDma h.context = true
  /-- The count of enabled function interrupts is the popcount of their mask (R28). -/
  count_mask : h.fnIrqCount.toNat = (setBits h.fnIrqMask).length
  /-- Function 0 has no interrupt (R28). -/
  mask_bit_zero : h.fnIrqMask.getLsbD 0 = false
  /-- During a DMA request the next phase's buffer begins where that of the phase in flight ends (R252). -/
  next_data : ctxIsDma h.context = true → h.nextDataAddr = h.pXferBuff + h.xferSize
  /-- During a DMA request every terminal source is enabled (R258). -/
  dma_terminal : ctxIsDma h.context = true → h.irqMask &&& terminalFlags = terminalFlags
  /-- Outside a DMA request no terminal source is enabled (R258). -/
  terminal_dma : ctxIsDma h.context = false → h.irqMask &&& terminalFlags = 0
  /-- No other flag is ever enabled (R331). -/
  mask_sources : h.irqMask &&& ~~~allSources = 0
  /-- The card interrupt is enabled only while a function interrupt is (R341). -/
  line_count : h.irqMask &&& flSdioit ≠ 0 → h.fnIrqCount ≠ 0
  /-- The card is selected exactly in `Idle` and `Active` (R36). -/
  ident_selected : h.globalState = .idle ∨ h.globalState = .active → h.identState = .selected
  /-- Elsewhere it is not identified (R36). -/
  ident_off : ¬(h.globalState = .idle ∨ h.globalState = .active) → h.identState = .powerOff
  /-- In `CardRemoved` the configuration is the default one (R171). -/
  removed_default : h.globalState = .cardRemoved → h.cfg.isDefault = true
  /-- Bits 31:8 of the error mask are never set (R320). -/
  errors_low : h.lastErrorCodes &&& 0xFFFFFF00 = 0

/-- A sound state: the handle's invariants and the canonical form of memory. -/
structure State.Inv (s : State) : Prop where
  handle : s.h.Inv
  memory : s.mem.wf = true

/-- The platform takes no interrupt until the schedule is refilled (R15). -/
def State.quiet (s : State) : Prop := s.env.irqSchedule = []

/-- No callback submits a request, what R398 asks of the host while a foreground request is unanswered. -/
def State.noReentry (s : State) : Prop := ∀ rs ∈ s.env.callbackScript, rs = []

/-- No callback is scripted, so none submits a request and none is used up. -/
def State.noCallbacks (s : State) : Prop := s.env.callbackScript = []

/-! ### Words for statements -/

/-- A response is put on the response port and nothing else changes (R93). -/
def State.answered (s : State) (ws : List Word) : State := { s with response := ws, trace := .respond ws :: s.trace }

/-- The environment after `n` commands (R361). -/
def Env.afterCmds : Nat → Env → Env
  | 0, e => e
  | n + 1, e => Env.afterCmds n e.afterCmd

/-- The answer of the command after `n` others. -/
def Env.answerAt (e : Env) (n : Nat) : CmdAnswer := (Env.afterCmds n e).cmdAnswer

/-- The middle of an identification (R135 to R137): after the first inquiry was answered `r`, the answers that the second
inquiry and the voltage switch take, all without error, and the port actions, newest first. -/
def identMiddle (s : State) (r : Word) (answers : List CmdAnswer) (actions : List PortAction) : Prop :=
  (r.extractLsb' 28 3 = 0 ∧ answers = [] ∧ actions = []) ∨
  (r.extractLsb' 28 3 ≠ 0 ∧ ∃ r2, ¬(r2.getLsbD 31 = true ∧ r2.getLsbD 24 = true) ∧ answers = [⟨0, r2⟩] ∧
    actions = [.cmd 5 (0x01000000 ||| s.params.identOcrArg)]) ∨
  (r.extractLsb' 28 3 ≠ 0 ∧ ∃ r2 r11, r2.getLsbD 31 = true ∧ r2.getLsbD 24 = true ∧ answers = [⟨0, r2⟩, ⟨0, r11⟩] ∧
    actions = (if s.h.transceiverMode = 1 then [.emit ⟨.transceiver, 1, s.h.cbTransceiver⟩] else []) ++
      [.cmd 11 0, .cmd 5 (0x01000000 ||| s.params.identOcrArg)])

/-- The relative-address requests that met "illegal command", each with the wait after it, newest first (R139). -/
def addressRetries (n : Nat) : List PortAction := (List.replicate n [PortAction.delayMs 1, .cmd 3 0]).flatten

/-- The operands of an extended transfer pass the checks (b), (c) and (d) of R224. -/
def State.extOk (s : State) (bm : Bit) (buf size : Word) : Prop :=
  size ≠ 0 ∧ (bm = 1 → blocks size s.h.blockSize ≠ 0) ∧ buf.toNat + size.toNat ≤ 2 ^ 32

/-- The enabled flags of the sample that the next invocation of the handler takes (R340). -/
def State.snapshot (s : State) : Word := flagSample s.env.flags s.env.raised s.bus.sdioOp &&& s.h.irqMask

/-- The environment after the handler's one sample and its one clearing of the flags `c` (R340, R345). -/
def State.consumed (s : State) (c : Word) : Env :=
  { s.env.afterSample s.bus.sdioOp with flags := flagsCleared (s.env.afterSample s.bus.sdioOp).flags c }

/-- So many invocations of the handler, one after another. -/
def handlerRuns : Nat → State → Option State
  | 0, s => some s
  | n + 1, s =>
    match exec .irqHandler s with
    | .next t => handlerRuns n t
    | _ => none

/-- The commands and engine programs of the phases of a DMA request, oldest first (R253, R256). -/
def phaseActions (rw : Bit) (fn : Fn) (op : Bit) : RegAddr → Word → List Phase → List PortAction
  | _, _, [] => []
  | reg, buf, pl :: r =>
    .dmaProgram buf (BitVec.ofNat 32 pl.len) :: .cmd 53 (enc53 rw fn (modeBit pl.mode) op reg pl.count) ::
      phaseActions rw fn op (if op = 1 then reg + BitVec.ofNat 17 pl.len else reg) (buf + BitVec.ofNat 32 pl.len) r

/-- A command or an engine program. -/
def PortAction.isPhase : PortAction → Bool
  | .cmd _ _ => true
  | .dmaProgram _ _ => true
  | _ => false

/-- An event. -/
def PortAction.isEmit : PortAction → Bool
  | .emit _ => true
  | _ => false

/-- An event whose slot does not hold `NOOP`, so that a callback runs (R297). -/
def PortAction.hasCallback : PortAction → Bool
  | .emit e => e.callback != 0
  | _ => false

/-- The sum of tick steps. -/
def tickSum (ds : List (BitVec 31)) : Nat := (ds.map BitVec.toNat).sum

end Sys2Proof.Machine
end

