-- ==== Sys2Proof/Laws/State.lean ====
section
/-! SUPPORT. One lemma per field per update: of the handle, of the state, of the environment. All true by `rfl`. -/

-- one thread: the package compiles as one text
set_option Elab.async false

namespace Sys2Proof.Machine

/-! ### Handle updates -/

@[simp] theorem Handle.withGlobal_instanceId (h : Handle) (g : GlobalState) : (h.withGlobal g).instanceId = h.instanceId := rfl
@[simp] theorem Handle.withGlobal_globalState (h : Handle) (g : GlobalState) : (h.withGlobal g).globalState = g := rfl
@[simp] theorem Handle.withGlobal_context (h : Handle) (g : GlobalState) : (h.withGlobal g).context = h.context := rfl
@[simp] theorem Handle.withGlobal_identState (h : Handle) (g : GlobalState) : (h.withGlobal g).identState = h.identState := rfl
@[simp] theorem Handle.withGlobal_blockSize (h : Handle) (g : GlobalState) : (h.withGlobal g).blockSize = h.blockSize := rfl
@[simp] theorem Handle.withGlobal_dataTimeoutCycles (h : Handle) (g : GlobalState) : (h.withGlobal g).dataTimeoutCycles = h.dataTimeoutCycles := rfl
@[simp] theorem Handle.withGlobal_transceiverMode (h : Handle) (g : GlobalState) : (h.withGlobal g).transceiverMode = h.transceiverMode := rfl
@[simp] theorem Handle.withGlobal_lastErrorCodes (h : Handle) (g : GlobalState) : (h.withGlobal g).lastErrorCodes = h.lastErrorCodes := rfl
@[simp] theorem Handle.withGlobal_remainingData (h : Handle) (g : GlobalState) : (h.withGlobal g).remainingData = h.remainingData := rfl
@[simp] theorem Handle.withGlobal_nextRegAddr (h : Handle) (g : GlobalState) : (h.withGlobal g).nextRegAddr = h.nextRegAddr := rfl
@[simp] theorem Handle.withGlobal_nextDataAddr (h : Handle) (g : GlobalState) : (h.withGlobal g).nextDataAddr = h.nextDataAddr := rfl
@[simp] theorem Handle.withGlobal_xferSize (h : Handle) (g : GlobalState) : (h.withGlobal g).xferSize = h.xferSize := rfl
@[simp] theorem Handle.withGlobal_pXferBuff (h : Handle) (g : GlobalState) : (h.withGlobal g).pXferBuff = h.pXferBuff := rfl
@[simp] theorem Handle.withGlobal_contDesc (h : Handle) (g : GlobalState) : (h.withGlobal g).contDesc = h.contDesc := rfl
@[simp] theorem Handle.withGlobal_fnIrqCount (h : Handle) (g : GlobalState) : (h.withGlobal g).fnIrqCount = h.fnIrqCount := rfl
@[simp] theorem Handle.withGlobal_fnIrqMask (h : Handle) (g : GlobalState) : (h.withGlobal g).fnIrqMask = h.fnIrqMask := rfl
@[simp] theorem Handle.withGlobal_cfg (h : Handle) (g : GlobalState) : (h.withGlobal g).cfg = h.cfg := rfl
@[simp] theorem Handle.withGlobal_cbRxComplete (h : Handle) (g : GlobalState) : (h.withGlobal g).cbRxComplete = h.cbRxComplete := rfl
@[simp] theorem Handle.withGlobal_cbTxComplete (h : Handle) (g : GlobalState) : (h.withGlobal g).cbTxComplete = h.cbTxComplete := rfl
@[simp] theorem Handle.withGlobal_cbError (h : Handle) (g : GlobalState) : (h.withGlobal g).cbError = h.cbError := rfl
@[simp] theorem Handle.withGlobal_cbTransceiver (h : Handle) (g : GlobalState) : (h.withGlobal g).cbTransceiver = h.cbTransceiver := rfl
@[simp] theorem Handle.withGlobal_fnCb (h : Handle) (g : GlobalState) : (h.withGlobal g).fnCb = h.fnCb := rfl
@[simp] theorem Handle.withGlobal_irqMask (h : Handle) (g : GlobalState) : (h.withGlobal g).irqMask = h.irqMask := rfl

@[simp] theorem Handle.withContext_instanceId (h : Handle) (c : BitVec 4) : (h.withContext c).instanceId = h.instanceId := rfl
@[simp] theorem Handle.withContext_globalState (h : Handle) (c : BitVec 4) : (h.withContext c).globalState = h.globalState := rfl
@[simp] theorem Handle.withContext_context (h : Handle) (c : BitVec 4) : (h.withContext c).context = c := rfl
@[simp] theorem Handle.withContext_identState (h : Handle) (c : BitVec 4) : (h.withContext c).identState = h.identState := rfl
@[simp] theorem Handle.withContext_blockSize (h : Handle) (c : BitVec 4) : (h.withContext c).blockSize = h.blockSize := rfl
@[simp] theorem Handle.withContext_dataTimeoutCycles (h : Handle) (c : BitVec 4) : (h.withContext c).dataTimeoutCycles = h.dataTimeoutCycles := rfl
@[simp] theorem Handle.withContext_transceiverMode (h : Handle) (c : BitVec 4) : (h.withContext c).transceiverMode = h.transceiverMode := rfl
@[simp] theorem Handle.withContext_lastErrorCodes (h : Handle) (c : BitVec 4) : (h.withContext c).lastErrorCodes = h.lastErrorCodes := rfl
@[simp] theorem Handle.withContext_remainingData (h : Handle) (c : BitVec 4) : (h.withContext c).remainingData = h.remainingData := rfl
@[simp] theorem Handle.withContext_nextRegAddr (h : Handle) (c : BitVec 4) : (h.withContext c).nextRegAddr = h.nextRegAddr := rfl
@[simp] theorem Handle.withContext_nextDataAddr (h : Handle) (c : BitVec 4) : (h.withContext c).nextDataAddr = h.nextDataAddr := rfl
@[simp] theorem Handle.withContext_xferSize (h : Handle) (c : BitVec 4) : (h.withContext c).xferSize = h.xferSize := rfl
@[simp] theorem Handle.withContext_pXferBuff (h : Handle) (c : BitVec 4) : (h.withContext c).pXferBuff = h.pXferBuff := rfl
@[simp] theorem Handle.withContext_contDesc (h : Handle) (c : BitVec 4) : (h.withContext c).contDesc = h.contDesc := rfl
@[simp] theorem Handle.withContext_fnIrqCount (h : Handle) (c : BitVec 4) : (h.withContext c).fnIrqCount = h.fnIrqCount := rfl
@[simp] theorem Handle.withContext_fnIrqMask (h : Handle) (c : BitVec 4) : (h.withContext c).fnIrqMask = h.fnIrqMask := rfl
@[simp] theorem Handle.withContext_cfg (h : Handle) (c : BitVec 4) : (h.withContext c).cfg = h.cfg := rfl
@[simp] theorem Handle.withContext_cbRxComplete (h : Handle) (c : BitVec 4) : (h.withContext c).cbRxComplete = h.cbRxComplete := rfl
@[simp] theorem Handle.withContext_cbTxComplete (h : Handle) (c : BitVec 4) : (h.withContext c).cbTxComplete = h.cbTxComplete := rfl
@[simp] theorem Handle.withContext_cbError (h : Handle) (c : BitVec 4) : (h.withContext c).cbError = h.cbError := rfl
@[simp] theorem Handle.withContext_cbTransceiver (h : Handle) (c : BitVec 4) : (h.withContext c).cbTransceiver = h.cbTransceiver := rfl
@[simp] theorem Handle.withContext_fnCb (h : Handle) (c : BitVec 4) : (h.withContext c).fnCb = h.fnCb := rfl
@[simp] theorem Handle.withContext_irqMask (h : Handle) (c : BitVec 4) : (h.withContext c).irqMask = h.irqMask := rfl

@[simp] theorem Handle.withIdent_instanceId (h : Handle) (i : IdentState) : (h.withIdent i).instanceId = h.instanceId := rfl
@[simp] theorem Handle.withIdent_globalState (h : Handle) (i : IdentState) : (h.withIdent i).globalState = h.globalState := rfl
@[simp] theorem Handle.withIdent_context (h : Handle) (i : IdentState) : (h.withIdent i).context = h.context := rfl
@[simp] theorem Handle.withIdent_identState (h : Handle) (i : IdentState) : (h.withIdent i).identState = i := rfl
@[simp] theorem Handle.withIdent_blockSize (h : Handle) (i : IdentState) : (h.withIdent i).blockSize = h.blockSize := rfl
@[simp] theorem Handle.withIdent_dataTimeoutCycles (h : Handle) (i : IdentState) : (h.withIdent i).dataTimeoutCycles = h.dataTimeoutCycles := rfl
@[simp] theorem Handle.withIdent_transceiverMode (h : Handle) (i : IdentState) : (h.withIdent i).transceiverMode = h.transceiverMode := rfl
@[simp] theorem Handle.withIdent_lastErrorCodes (h : Handle) (i : IdentState) : (h.withIdent i).lastErrorCodes = h.lastErrorCodes := rfl
@[simp] theorem Handle.withIdent_remainingData (h : Handle) (i : IdentState) : (h.withIdent i).remainingData = h.remainingData := rfl
@[simp] theorem Handle.withIdent_nextRegAddr (h : Handle) (i : IdentState) : (h.withIdent i).nextRegAddr = h.nextRegAddr := rfl
@[simp] theorem Handle.withIdent_nextDataAddr (h : Handle) (i : IdentState) : (h.withIdent i).nextDataAddr = h.nextDataAddr := rfl
@[simp] theorem Handle.withIdent_xferSize (h : Handle) (i : IdentState) : (h.withIdent i).xferSize = h.xferSize := rfl
@[simp] theorem Handle.withIdent_pXferBuff (h : Handle) (i : IdentState) : (h.withIdent i).pXferBuff = h.pXferBuff := rfl
@[simp] theorem Handle.withIdent_contDesc (h : Handle) (i : IdentState) : (h.withIdent i).contDesc = h.contDesc := rfl
@[simp] theorem Handle.withIdent_fnIrqCount (h : Handle) (i : IdentState) : (h.withIdent i).fnIrqCount = h.fnIrqCount := rfl
@[simp] theorem Handle.withIdent_fnIrqMask (h : Handle) (i : IdentState) : (h.withIdent i).fnIrqMask = h.fnIrqMask := rfl
@[simp] theorem Handle.withIdent_cfg (h : Handle) (i : IdentState) : (h.withIdent i).cfg = h.cfg := rfl
@[simp] theorem Handle.withIdent_cbRxComplete (h : Handle) (i : IdentState) : (h.withIdent i).cbRxComplete = h.cbRxComplete := rfl
@[simp] theorem Handle.withIdent_cbTxComplete (h : Handle) (i : IdentState) : (h.withIdent i).cbTxComplete = h.cbTxComplete := rfl
@[simp] theorem Handle.withIdent_cbError (h : Handle) (i : IdentState) : (h.withIdent i).cbError = h.cbError := rfl
@[simp] theorem Handle.withIdent_cbTransceiver (h : Handle) (i : IdentState) : (h.withIdent i).cbTransceiver = h.cbTransceiver := rfl
@[simp] theorem Handle.withIdent_fnCb (h : Handle) (i : IdentState) : (h.withIdent i).fnCb = h.fnCb := rfl
@[simp] theorem Handle.withIdent_irqMask (h : Handle) (i : IdentState) : (h.withIdent i).irqMask = h.irqMask := rfl

@[simp] theorem Handle.orErrors_instanceId (h : Handle) (e : Word) : (h.orErrors e).instanceId = h.instanceId := rfl
@[simp] theorem Handle.orErrors_globalState (h : Handle) (e : Word) : (h.orErrors e).globalState = h.globalState := rfl
@[simp] theorem Handle.orErrors_context (h : Handle) (e : Word) : (h.orErrors e).context = h.context := rfl
@[simp] theorem Handle.orErrors_identState (h : Handle) (e : Word) : (h.orErrors e).identState = h.identState := rfl
@[simp] theorem Handle.orErrors_blockSize (h : Handle) (e : Word) : (h.orErrors e).blockSize = h.blockSize := rfl
@[simp] theorem Handle.orErrors_dataTimeoutCycles (h : Handle) (e : Word) : (h.orErrors e).dataTimeoutCycles = h.dataTimeoutCycles := rfl
@[simp] theorem Handle.orErrors_transceiverMode (h : Handle) (e : Word) : (h.orErrors e).transceiverMode = h.transceiverMode := rfl
@[simp] theorem Handle.orErrors_lastErrorCodes (h : Handle) (e : Word) : (h.orErrors e).lastErrorCodes = h.lastErrorCodes ||| e := rfl
@[simp] theorem Handle.orErrors_remainingData (h : Handle) (e : Word) : (h.orErrors e).remainingData = h.remainingData := rfl
@[simp] theorem Handle.orErrors_nextRegAddr (h : Handle) (e : Word) : (h.orErrors e).nextRegAddr = h.nextRegAddr := rfl
@[simp] theorem Handle.orErrors_nextDataAddr (h : Handle) (e : Word) : (h.orErrors e).nextDataAddr = h.nextDataAddr := rfl
@[simp] theorem Handle.orErrors_xferSize (h : Handle) (e : Word) : (h.orErrors e).xferSize = h.xferSize := rfl
@[simp] theorem Handle.orErrors_pXferBuff (h : Handle) (e : Word) : (h.orErrors e).pXferBuff = h.pXferBuff := rfl
@[simp] theorem Handle.orErrors_contDesc (h : Handle) (e : Word) : (h.orErrors e).contDesc = h.contDesc := rfl
@[simp] theorem Handle.orErrors_fnIrqCount (h : Handle) (e : Word) : (h.orErrors e).fnIrqCount = h.fnIrqCount := rfl
@[simp] theorem Handle.orErrors_fnIrqMask (h : Handle) (e : Word) : (h.orErrors e).fnIrqMask = h.fnIrqMask := rfl
@[simp] theorem Handle.orErrors_cfg (h : Handle) (e : Word) : (h.orErrors e).cfg = h.cfg := rfl
@[simp] theorem Handle.orErrors_cbRxComplete (h : Handle) (e : Word) : (h.orErrors e).cbRxComplete = h.cbRxComplete := rfl
@[simp] theorem Handle.orErrors_cbTxComplete (h : Handle) (e : Word) : (h.orErrors e).cbTxComplete = h.cbTxComplete := rfl
@[simp] theorem Handle.orErrors_cbError (h : Handle) (e : Word) : (h.orErrors e).cbError = h.cbError := rfl
@[simp] theorem Handle.orErrors_cbTransceiver (h : Handle) (e : Word) : (h.orErrors e).cbTransceiver = h.cbTransceiver := rfl
@[simp] theorem Handle.orErrors_fnCb (h : Handle) (e : Word) : (h.orErrors e).fnCb = h.fnCb := rfl
@[simp] theorem Handle.orErrors_irqMask (h : Handle) (e : Word) : (h.orErrors e).irqMask = h.irqMask := rfl

@[simp] theorem Handle.clearErrors_instanceId (h : Handle) : h.clearErrors.instanceId = h.instanceId := rfl
@[simp] theorem Handle.clearErrors_globalState (h : Handle) : h.clearErrors.globalState = h.globalState := rfl
@[simp] theorem Handle.clearErrors_context (h : Handle) : h.clearErrors.context = h.context := rfl
@[simp] theorem Handle.clearErrors_identState (h : Handle) : h.clearErrors.identState = h.identState := rfl
@[simp] theorem Handle.clearErrors_blockSize (h : Handle) : h.clearErrors.blockSize = h.blockSize := rfl
@[simp] theorem Handle.clearErrors_dataTimeoutCycles (h : Handle) : h.clearErrors.dataTimeoutCycles = h.dataTimeoutCycles := rfl
@[simp] theorem Handle.clearErrors_transceiverMode (h : Handle) : h.clearErrors.transceiverMode = h.transceiverMode := rfl
@[simp] theorem Handle.clearErrors_lastErrorCodes (h : Handle) : h.clearErrors.lastErrorCodes = 0 := rfl
@[simp] theorem Handle.clearErrors_remainingData (h : Handle) : h.clearErrors.remainingData = h.remainingData := rfl
@[simp] theorem Handle.clearErrors_nextRegAddr (h : Handle) : h.clearErrors.nextRegAddr = h.nextRegAddr := rfl
@[simp] theorem Handle.clearErrors_nextDataAddr (h : Handle) : h.clearErrors.nextDataAddr = h.nextDataAddr := rfl
@[simp] theorem Handle.clearErrors_xferSize (h : Handle) : h.clearErrors.xferSize = h.xferSize := rfl
@[simp] theorem Handle.clearErrors_pXferBuff (h : Handle) : h.clearErrors.pXferBuff = h.pXferBuff := rfl
@[simp] theorem Handle.clearErrors_contDesc (h : Handle) : h.clearErrors.contDesc = h.contDesc := rfl
@[simp] theorem Handle.clearErrors_fnIrqCount (h : Handle) : h.clearErrors.fnIrqCount = h.fnIrqCount := rfl
@[simp] theorem Handle.clearErrors_fnIrqMask (h : Handle) : h.clearErrors.fnIrqMask = h.fnIrqMask := rfl
@[simp] theorem Handle.clearErrors_cfg (h : Handle) : h.clearErrors.cfg = h.cfg := rfl
@[simp] theorem Handle.clearErrors_cbRxComplete (h : Handle) : h.clearErrors.cbRxComplete = h.cbRxComplete := rfl
@[simp] theorem Handle.clearErrors_cbTxComplete (h : Handle) : h.clearErrors.cbTxComplete = h.cbTxComplete := rfl
@[simp] theorem Handle.clearErrors_cbError (h : Handle) : h.clearErrors.cbError = h.cbError := rfl
@[simp] theorem Handle.clearErrors_cbTransceiver (h : Handle) : h.clearErrors.cbTransceiver = h.cbTransceiver := rfl
@[simp] theorem Handle.clearErrors_fnCb (h : Handle) : h.clearErrors.fnCb = h.fnCb := rfl
@[simp] theorem Handle.clearErrors_irqMask (h : Handle) : h.clearErrors.irqMask = h.irqMask := rfl

@[simp] theorem Handle.withCfg_instanceId (h : Handle) (c : Cfg) : (h.withCfg c).instanceId = h.instanceId := rfl
@[simp] theorem Handle.withCfg_globalState (h : Handle) (c : Cfg) : (h.withCfg c).globalState = h.globalState := rfl
@[simp] theorem Handle.withCfg_context (h : Handle) (c : Cfg) : (h.withCfg c).context = h.context := rfl
@[simp] theorem Handle.withCfg_identState (h : Handle) (c : Cfg) : (h.withCfg c).identState = h.identState := rfl
@[simp] theorem Handle.withCfg_blockSize (h : Handle) (c : Cfg) : (h.withCfg c).blockSize = h.blockSize := rfl
@[simp] theorem Handle.withCfg_dataTimeoutCycles (h : Handle) (c : Cfg) : (h.withCfg c).dataTimeoutCycles = h.dataTimeoutCycles := rfl
@[simp] theorem Handle.withCfg_transceiverMode (h : Handle) (c : Cfg) : (h.withCfg c).transceiverMode = h.transceiverMode := rfl
@[simp] theorem Handle.withCfg_lastErrorCodes (h : Handle) (c : Cfg) : (h.withCfg c).lastErrorCodes = h.lastErrorCodes := rfl
@[simp] theorem Handle.withCfg_remainingData (h : Handle) (c : Cfg) : (h.withCfg c).remainingData = h.remainingData := rfl
@[simp] theorem Handle.withCfg_nextRegAddr (h : Handle) (c : Cfg) : (h.withCfg c).nextRegAddr = h.nextRegAddr := rfl
@[simp] theorem Handle.withCfg_nextDataAddr (h : Handle) (c : Cfg) : (h.withCfg c).nextDataAddr = h.nextDataAddr := rfl
@[simp] theorem Handle.withCfg_xferSize (h : Handle) (c : Cfg) : (h.withCfg c).xferSize = h.xferSize := rfl
@[simp] theorem Handle.withCfg_pXferBuff (h : Handle) (c : Cfg) : (h.withCfg c).pXferBuff = h.pXferBuff := rfl
@[simp] theorem Handle.withCfg_contDesc (h : Handle) (c : Cfg) : (h.withCfg c).contDesc = h.contDesc := rfl
@[simp] theorem Handle.withCfg_fnIrqCount (h : Handle) (c : Cfg) : (h.withCfg c).fnIrqCount = h.fnIrqCount := rfl
@[simp] theorem Handle.withCfg_fnIrqMask (h : Handle) (c : Cfg) : (h.withCfg c).fnIrqMask = h.fnIrqMask := rfl
@[simp] theorem Handle.withCfg_cfg (h : Handle) (c : Cfg) : (h.withCfg c).cfg = c := rfl
@[simp] theorem Handle.withCfg_cbRxComplete (h : Handle) (c : Cfg) : (h.withCfg c).cbRxComplete = h.cbRxComplete := rfl
@[simp] theorem Handle.withCfg_cbTxComplete (h : Handle) (c : Cfg) : (h.withCfg c).cbTxComplete = h.cbTxComplete := rfl
@[simp] theorem Handle.withCfg_cbError (h : Handle) (c : Cfg) : (h.withCfg c).cbError = h.cbError := rfl
@[simp] theorem Handle.withCfg_cbTransceiver (h : Handle) (c : Cfg) : (h.withCfg c).cbTransceiver = h.cbTransceiver := rfl
@[simp] theorem Handle.withCfg_fnCb (h : Handle) (c : Cfg) : (h.withCfg c).fnCb = h.fnCb := rfl
@[simp] theorem Handle.withCfg_irqMask (h : Handle) (c : Cfg) : (h.withCfg c).irqMask = h.irqMask := rfl

@[simp] theorem Handle.withBlockSize_instanceId (h : Handle) (v : Word) : (h.withBlockSize v).instanceId = h.instanceId := rfl
@[simp] theorem Handle.withBlockSize_globalState (h : Handle) (v : Word) : (h.withBlockSize v).globalState = h.globalState := rfl
@[simp] theorem Handle.withBlockSize_context (h : Handle) (v : Word) : (h.withBlockSize v).context = h.context := rfl
@[simp] theorem Handle.withBlockSize_identState (h : Handle) (v : Word) : (h.withBlockSize v).identState = h.identState := rfl
@[simp] theorem Handle.withBlockSize_blockSize (h : Handle) (v : Word) : (h.withBlockSize v).blockSize = v := rfl
@[simp] theorem Handle.withBlockSize_dataTimeoutCycles (h : Handle) (v : Word) : (h.withBlockSize v).dataTimeoutCycles = h.dataTimeoutCycles := rfl
@[simp] theorem Handle.withBlockSize_transceiverMode (h : Handle) (v : Word) : (h.withBlockSize v).transceiverMode = h.transceiverMode := rfl
@[simp] theorem Handle.withBlockSize_lastErrorCodes (h : Handle) (v : Word) : (h.withBlockSize v).lastErrorCodes = h.lastErrorCodes := rfl
@[simp] theorem Handle.withBlockSize_remainingData (h : Handle) (v : Word) : (h.withBlockSize v).remainingData = h.remainingData := rfl
@[simp] theorem Handle.withBlockSize_nextRegAddr (h : Handle) (v : Word) : (h.withBlockSize v).nextRegAddr = h.nextRegAddr := rfl
@[simp] theorem Handle.withBlockSize_nextDataAddr (h : Handle) (v : Word) : (h.withBlockSize v).nextDataAddr = h.nextDataAddr := rfl
@[simp] theorem Handle.withBlockSize_xferSize (h : Handle) (v : Word) : (h.withBlockSize v).xferSize = h.xferSize := rfl
@[simp] theorem Handle.withBlockSize_pXferBuff (h : Handle) (v : Word) : (h.withBlockSize v).pXferBuff = h.pXferBuff := rfl
@[simp] theorem Handle.withBlockSize_contDesc (h : Handle) (v : Word) : (h.withBlockSize v).contDesc = h.contDesc := rfl
@[simp] theorem Handle.withBlockSize_fnIrqCount (h : Handle) (v : Word) : (h.withBlockSize v).fnIrqCount = h.fnIrqCount := rfl
@[simp] theorem Handle.withBlockSize_fnIrqMask (h : Handle) (v : Word) : (h.withBlockSize v).fnIrqMask = h.fnIrqMask := rfl
@[simp] theorem Handle.withBlockSize_cfg (h : Handle) (v : Word) : (h.withBlockSize v).cfg = h.cfg := rfl
@[simp] theorem Handle.withBlockSize_cbRxComplete (h : Handle) (v : Word) : (h.withBlockSize v).cbRxComplete = h.cbRxComplete := rfl
@[simp] theorem Handle.withBlockSize_cbTxComplete (h : Handle) (v : Word) : (h.withBlockSize v).cbTxComplete = h.cbTxComplete := rfl
@[simp] theorem Handle.withBlockSize_cbError (h : Handle) (v : Word) : (h.withBlockSize v).cbError = h.cbError := rfl
@[simp] theorem Handle.withBlockSize_cbTransceiver (h : Handle) (v : Word) : (h.withBlockSize v).cbTransceiver = h.cbTransceiver := rfl
@[simp] theorem Handle.withBlockSize_fnCb (h : Handle) (v : Word) : (h.withBlockSize v).fnCb = h.fnCb := rfl
@[simp] theorem Handle.withBlockSize_irqMask (h : Handle) (v : Word) : (h.withBlockSize v).irqMask = h.irqMask := rfl

@[simp] theorem Handle.withDataTimeout_instanceId (h : Handle) (v : Word) : (h.withDataTimeout v).instanceId = h.instanceId := rfl
@[simp] theorem Handle.withDataTimeout_globalState (h : Handle) (v : Word) : (h.withDataTimeout v).globalState = h.globalState := rfl
@[simp] theorem Handle.withDataTimeout_context (h : Handle) (v : Word) : (h.withDataTimeout v).context = h.context := rfl
@[simp] theorem Handle.withDataTimeout_identState (h : Handle) (v : Word) : (h.withDataTimeout v).identState = h.identState := rfl
@[simp] theorem Handle.withDataTimeout_blockSize (h : Handle) (v : Word) : (h.withDataTimeout v).blockSize = h.blockSize := rfl
@[simp] theorem Handle.withDataTimeout_dataTimeoutCycles (h : Handle) (v : Word) : (h.withDataTimeout v).dataTimeoutCycles = v := rfl
@[simp] theorem Handle.withDataTimeout_transceiverMode (h : Handle) (v : Word) : (h.withDataTimeout v).transceiverMode = h.transceiverMode := rfl
@[simp] theorem Handle.withDataTimeout_lastErrorCodes (h : Handle) (v : Word) : (h.withDataTimeout v).lastErrorCodes = h.lastErrorCodes := rfl
@[simp] theorem Handle.withDataTimeout_remainingData (h : Handle) (v : Word) : (h.withDataTimeout v).remainingData = h.remainingData := rfl
@[simp] theorem Handle.withDataTimeout_nextRegAddr (h : Handle) (v : Word) : (h.withDataTimeout v).nextRegAddr = h.nextRegAddr := rfl
@[simp] theorem Handle.withDataTimeout_nextDataAddr (h : Handle) (v : Word) : (h.withDataTimeout v).nextDataAddr = h.nextDataAddr := rfl
@[simp] theorem Handle.withDataTimeout_xferSize (h : Handle) (v : Word) : (h.withDataTimeout v).xferSize = h.xferSize := rfl
@[simp] theorem Handle.withDataTimeout_pXferBuff (h : Handle) (v : Word) : (h.withDataTimeout v).pXferBuff = h.pXferBuff := rfl
@[simp] theorem Handle.withDataTimeout_contDesc (h : Handle) (v : Word) : (h.withDataTimeout v).contDesc = h.contDesc := rfl
@[simp] theorem Handle.withDataTimeout_fnIrqCount (h : Handle) (v : Word) : (h.withDataTimeout v).fnIrqCount = h.fnIrqCount := rfl
@[simp] theorem Handle.withDataTimeout_fnIrqMask (h : Handle) (v : Word) : (h.withDataTimeout v).fnIrqMask = h.fnIrqMask := rfl
@[simp] theorem Handle.withDataTimeout_cfg (h : Handle) (v : Word) : (h.withDataTimeout v).cfg = h.cfg := rfl
@[simp] theorem Handle.withDataTimeout_cbRxComplete (h : Handle) (v : Word) : (h.withDataTimeout v).cbRxComplete = h.cbRxComplete := rfl
@[simp] theorem Handle.withDataTimeout_cbTxComplete (h : Handle) (v : Word) : (h.withDataTimeout v).cbTxComplete = h.cbTxComplete := rfl
@[simp] theorem Handle.withDataTimeout_cbError (h : Handle) (v : Word) : (h.withDataTimeout v).cbError = h.cbError := rfl
@[simp] theorem Handle.withDataTimeout_cbTransceiver (h : Handle) (v : Word) : (h.withDataTimeout v).cbTransceiver = h.cbTransceiver := rfl
@[simp] theorem Handle.withDataTimeout_fnCb (h : Handle) (v : Word) : (h.withDataTimeout v).fnCb = h.fnCb := rfl
@[simp] theorem Handle.withDataTimeout_irqMask (h : Handle) (v : Word) : (h.withDataTimeout v).irqMask = h.irqMask := rfl

@[simp] theorem Handle.withIrqMask_instanceId (h : Handle) (m : Word) : (h.withIrqMask m).instanceId = h.instanceId := rfl
@[simp] theorem Handle.withIrqMask_globalState (h : Handle) (m : Word) : (h.withIrqMask m).globalState = h.globalState := rfl
@[simp] theorem Handle.withIrqMask_context (h : Handle) (m : Word) : (h.withIrqMask m).context = h.context := rfl
@[simp] theorem Handle.withIrqMask_identState (h : Handle) (m : Word) : (h.withIrqMask m).identState = h.identState := rfl
@[simp] theorem Handle.withIrqMask_blockSize (h : Handle) (m : Word) : (h.withIrqMask m).blockSize = h.blockSize := rfl
@[simp] theorem Handle.withIrqMask_dataTimeoutCycles (h : Handle) (m : Word) : (h.withIrqMask m).dataTimeoutCycles = h.dataTimeoutCycles := rfl
@[simp] theorem Handle.withIrqMask_transceiverMode (h : Handle) (m : Word) : (h.withIrqMask m).transceiverMode = h.transceiverMode := rfl
@[simp] theorem Handle.withIrqMask_lastErrorCodes (h : Handle) (m : Word) : (h.withIrqMask m).lastErrorCodes = h.lastErrorCodes := rfl
@[simp] theorem Handle.withIrqMask_remainingData (h : Handle) (m : Word) : (h.withIrqMask m).remainingData = h.remainingData := rfl
@[simp] theorem Handle.withIrqMask_nextRegAddr (h : Handle) (m : Word) : (h.withIrqMask m).nextRegAddr = h.nextRegAddr := rfl
@[simp] theorem Handle.withIrqMask_nextDataAddr (h : Handle) (m : Word) : (h.withIrqMask m).nextDataAddr = h.nextDataAddr := rfl
@[simp] theorem Handle.withIrqMask_xferSize (h : Handle) (m : Word) : (h.withIrqMask m).xferSize = h.xferSize := rfl
@[simp] theorem Handle.withIrqMask_pXferBuff (h : Handle) (m : Word) : (h.withIrqMask m).pXferBuff = h.pXferBuff := rfl
@[simp] theorem Handle.withIrqMask_contDesc (h : Handle) (m : Word) : (h.withIrqMask m).contDesc = h.contDesc := rfl
@[simp] theorem Handle.withIrqMask_fnIrqCount (h : Handle) (m : Word) : (h.withIrqMask m).fnIrqCount = h.fnIrqCount := rfl
@[simp] theorem Handle.withIrqMask_fnIrqMask (h : Handle) (m : Word) : (h.withIrqMask m).fnIrqMask = h.fnIrqMask := rfl
@[simp] theorem Handle.withIrqMask_cfg (h : Handle) (m : Word) : (h.withIrqMask m).cfg = h.cfg := rfl
@[simp] theorem Handle.withIrqMask_cbRxComplete (h : Handle) (m : Word) : (h.withIrqMask m).cbRxComplete = h.cbRxComplete := rfl
@[simp] theorem Handle.withIrqMask_cbTxComplete (h : Handle) (m : Word) : (h.withIrqMask m).cbTxComplete = h.cbTxComplete := rfl
@[simp] theorem Handle.withIrqMask_cbError (h : Handle) (m : Word) : (h.withIrqMask m).cbError = h.cbError := rfl
@[simp] theorem Handle.withIrqMask_cbTransceiver (h : Handle) (m : Word) : (h.withIrqMask m).cbTransceiver = h.cbTransceiver := rfl
@[simp] theorem Handle.withIrqMask_fnCb (h : Handle) (m : Word) : (h.withIrqMask m).fnCb = h.fnCb := rfl
@[simp] theorem Handle.withIrqMask_irqMask (h : Handle) (m : Word) : (h.withIrqMask m).irqMask = m := rfl

@[simp] theorem Handle.withFnIrq_instanceId (h : Handle) (m : Byte) (n : BitVec 4) : (h.withFnIrq m n).instanceId = h.instanceId := rfl
@[simp] theorem Handle.withFnIrq_globalState (h : Handle) (m : Byte) (n : BitVec 4) : (h.withFnIrq m n).globalState = h.globalState := rfl
@[simp] theorem Handle.withFnIrq_context (h : Handle) (m : Byte) (n : BitVec 4) : (h.withFnIrq m n).context = h.context := rfl
@[simp] theorem Handle.withFnIrq_identState (h : Handle) (m : Byte) (n : BitVec 4) : (h.withFnIrq m n).identState = h.identState := rfl
@[simp] theorem Handle.withFnIrq_blockSize (h : Handle) (m : Byte) (n : BitVec 4) : (h.withFnIrq m n).blockSize = h.blockSize := rfl
@[simp] theorem Handle.withFnIrq_dataTimeoutCycles (h : Handle) (m : Byte) (n : BitVec 4) : (h.withFnIrq m n).dataTimeoutCycles = h.dataTimeoutCycles := rfl
@[simp] theorem Handle.withFnIrq_transceiverMode (h : Handle) (m : Byte) (n : BitVec 4) : (h.withFnIrq m n).transceiverMode = h.transceiverMode := rfl
@[simp] theorem Handle.withFnIrq_lastErrorCodes (h : Handle) (m : Byte) (n : BitVec 4) : (h.withFnIrq m n).lastErrorCodes = h.lastErrorCodes := rfl
@[simp] theorem Handle.withFnIrq_remainingData (h : Handle) (m : Byte) (n : BitVec 4) : (h.withFnIrq m n).remainingData = h.remainingData := rfl
@[simp] theorem Handle.withFnIrq_nextRegAddr (h : Handle) (m : Byte) (n : BitVec 4) : (h.withFnIrq m n).nextRegAddr = h.nextRegAddr := rfl
@[simp] theorem Handle.withFnIrq_nextDataAddr (h : Handle) (m : Byte) (n : BitVec 4) : (h.withFnIrq m n).nextDataAddr = h.nextDataAddr := rfl
@[simp] theorem Handle.withFnIrq_xferSize (h : Handle) (m : Byte) (n : BitVec 4) : (h.withFnIrq m n).xferSize = h.xferSize := rfl
@[simp] theorem Handle.withFnIrq_pXferBuff (h : Handle) (m : Byte) (n : BitVec 4) : (h.withFnIrq m n).pXferBuff = h.pXferBuff := rfl
@[simp] theorem Handle.withFnIrq_contDesc (h : Handle) (m : Byte) (n : BitVec 4) : (h.withFnIrq m n).contDesc = h.contDesc := rfl
@[simp] theorem Handle.withFnIrq_fnIrqCount (h : Handle) (m : Byte) (n : BitVec 4) : (h.withFnIrq m n).fnIrqCount = n := rfl
@[simp] theorem Handle.withFnIrq_fnIrqMask (h : Handle) (m : Byte) (n : BitVec 4) : (h.withFnIrq m n).fnIrqMask = m := rfl
@[simp] theorem Handle.withFnIrq_cfg (h : Handle) (m : Byte) (n : BitVec 4) : (h.withFnIrq m n).cfg = h.cfg := rfl
@[simp] theorem Handle.withFnIrq_cbRxComplete (h : Handle) (m : Byte) (n : BitVec 4) : (h.withFnIrq m n).cbRxComplete = h.cbRxComplete := rfl
@[simp] theorem Handle.withFnIrq_cbTxComplete (h : Handle) (m : Byte) (n : BitVec 4) : (h.withFnIrq m n).cbTxComplete = h.cbTxComplete := rfl
@[simp] theorem Handle.withFnIrq_cbError (h : Handle) (m : Byte) (n : BitVec 4) : (h.withFnIrq m n).cbError = h.cbError := rfl
@[simp] theorem Handle.withFnIrq_cbTransceiver (h : Handle) (m : Byte) (n : BitVec 4) : (h.withFnIrq m n).cbTransceiver = h.cbTransceiver := rfl
@[simp] theorem Handle.withFnIrq_fnCb (h : Handle) (m : Byte) (n : BitVec 4) : (h.withFnIrq m n).fnCb = h.fnCb := rfl
@[simp] theorem Handle.withFnIrq_irqMask (h : Handle) (m : Byte) (n : BitVec 4) : (h.withFnIrq m n).irqMask = h.irqMask := rfl

@[simp] theorem Handle.withRemaining_instanceId (h : Handle) (v : Word) : (h.withRemaining v).instanceId = h.instanceId := rfl
@[simp] theorem Handle.withRemaining_globalState (h : Handle) (v : Word) : (h.withRemaining v).globalState = h.globalState := rfl
@[simp] theorem Handle.withRemaining_context (h : Handle) (v : Word) : (h.withRemaining v).context = h.context := rfl
@[simp] theorem Handle.withRemaining_identState (h : Handle) (v : Word) : (h.withRemaining v).identState = h.identState := rfl
@[simp] theorem Handle.withRemaining_blockSize (h : Handle) (v : Word) : (h.withRemaining v).blockSize = h.blockSize := rfl
@[simp] theorem Handle.withRemaining_dataTimeoutCycles (h : Handle) (v : Word) : (h.withRemaining v).dataTimeoutCycles = h.dataTimeoutCycles := rfl
@[simp] theorem Handle.withRemaining_transceiverMode (h : Handle) (v : Word) : (h.withRemaining v).transceiverMode = h.transceiverMode := rfl
@[simp] theorem Handle.withRemaining_lastErrorCodes (h : Handle) (v : Word) : (h.withRemaining v).lastErrorCodes = h.lastErrorCodes := rfl
@[simp] theorem Handle.withRemaining_remainingData (h : Handle) (v : Word) : (h.withRemaining v).remainingData = v := rfl
@[simp] theorem Handle.withRemaining_nextRegAddr (h : Handle) (v : Word) : (h.withRemaining v).nextRegAddr = h.nextRegAddr := rfl
@[simp] theorem Handle.withRemaining_nextDataAddr (h : Handle) (v : Word) : (h.withRemaining v).nextDataAddr = h.nextDataAddr := rfl
@[simp] theorem Handle.withRemaining_xferSize (h : Handle) (v : Word) : (h.withRemaining v).xferSize = h.xferSize := rfl
@[simp] theorem Handle.withRemaining_pXferBuff (h : Handle) (v : Word) : (h.withRemaining v).pXferBuff = h.pXferBuff := rfl
@[simp] theorem Handle.withRemaining_contDesc (h : Handle) (v : Word) : (h.withRemaining v).contDesc = h.contDesc := rfl
@[simp] theorem Handle.withRemaining_fnIrqCount (h : Handle) (v : Word) : (h.withRemaining v).fnIrqCount = h.fnIrqCount := rfl
@[simp] theorem Handle.withRemaining_fnIrqMask (h : Handle) (v : Word) : (h.withRemaining v).fnIrqMask = h.fnIrqMask := rfl
@[simp] theorem Handle.withRemaining_cfg (h : Handle) (v : Word) : (h.withRemaining v).cfg = h.cfg := rfl
@[simp] theorem Handle.withRemaining_cbRxComplete (h : Handle) (v : Word) : (h.withRemaining v).cbRxComplete = h.cbRxComplete := rfl
@[simp] theorem Handle.withRemaining_cbTxComplete (h : Handle) (v : Word) : (h.withRemaining v).cbTxComplete = h.cbTxComplete := rfl
@[simp] theorem Handle.withRemaining_cbError (h : Handle) (v : Word) : (h.withRemaining v).cbError = h.cbError := rfl
@[simp] theorem Handle.withRemaining_cbTransceiver (h : Handle) (v : Word) : (h.withRemaining v).cbTransceiver = h.cbTransceiver := rfl
@[simp] theorem Handle.withRemaining_fnCb (h : Handle) (v : Word) : (h.withRemaining v).fnCb = h.fnCb := rfl
@[simp] theorem Handle.withRemaining_irqMask (h : Handle) (v : Word) : (h.withRemaining v).irqMask = h.irqMask := rfl

@[simp] theorem Handle.withContDesc_instanceId (h : Handle) (d : ContDesc) : (h.withContDesc d).instanceId = h.instanceId := rfl
@[simp] theorem Handle.withContDesc_globalState (h : Handle) (d : ContDesc) : (h.withContDesc d).globalState = h.globalState := rfl
@[simp] theorem Handle.withContDesc_context (h : Handle) (d : ContDesc) : (h.withContDesc d).context = h.context := rfl
@[simp] theorem Handle.withContDesc_identState (h : Handle) (d : ContDesc) : (h.withContDesc d).identState = h.identState := rfl
@[simp] theorem Handle.withContDesc_blockSize (h : Handle) (d : ContDesc) : (h.withContDesc d).blockSize = h.blockSize := rfl
@[simp] theorem Handle.withContDesc_dataTimeoutCycles (h : Handle) (d : ContDesc) : (h.withContDesc d).dataTimeoutCycles = h.dataTimeoutCycles := rfl
@[simp] theorem Handle.withContDesc_transceiverMode (h : Handle) (d : ContDesc) : (h.withContDesc d).transceiverMode = h.transceiverMode := rfl
@[simp] theorem Handle.withContDesc_lastErrorCodes (h : Handle) (d : ContDesc) : (h.withContDesc d).lastErrorCodes = h.lastErrorCodes := rfl
@[simp] theorem Handle.withContDesc_remainingData (h : Handle) (d : ContDesc) : (h.withContDesc d).remainingData = h.remainingData := rfl
@[simp] theorem Handle.withContDesc_nextRegAddr (h : Handle) (d : ContDesc) : (h.withContDesc d).nextRegAddr = h.nextRegAddr := rfl
@[simp] theorem Handle.withContDesc_nextDataAddr (h : Handle) (d : ContDesc) : (h.withContDesc d).nextDataAddr = h.nextDataAddr := rfl
@[simp] theorem Handle.withContDesc_xferSize (h : Handle) (d : ContDesc) : (h.withContDesc d).xferSize = h.xferSize := rfl
@[simp] theorem Handle.withContDesc_pXferBuff (h : Handle) (d : ContDesc) : (h.withContDesc d).pXferBuff = h.pXferBuff := rfl
@[simp] theorem Handle.withContDesc_contDesc (h : Handle) (d : ContDesc) : (h.withContDesc d).contDesc = d := rfl
@[simp] theorem Handle.withContDesc_fnIrqCount (h : Handle) (d : ContDesc) : (h.withContDesc d).fnIrqCount = h.fnIrqCount := rfl
@[simp] theorem Handle.withContDesc_fnIrqMask (h : Handle) (d : ContDesc) : (h.withContDesc d).fnIrqMask = h.fnIrqMask := rfl
@[simp] theorem Handle.withContDesc_cfg (h : Handle) (d : ContDesc) : (h.withContDesc d).cfg = h.cfg := rfl
@[simp] theorem Handle.withContDesc_cbRxComplete (h : Handle) (d : ContDesc) : (h.withContDesc d).cbRxComplete = h.cbRxComplete := rfl
@[simp] theorem Handle.withContDesc_cbTxComplete (h : Handle) (d : ContDesc) : (h.withContDesc d).cbTxComplete = h.cbTxComplete := rfl
@[simp] theorem Handle.withContDesc_cbError (h : Handle) (d : ContDesc) : (h.withContDesc d).cbError = h.cbError := rfl
@[simp] theorem Handle.withContDesc_cbTransceiver (h : Handle) (d : ContDesc) : (h.withContDesc d).cbTransceiver = h.cbTransceiver := rfl
@[simp] theorem Handle.withContDesc_fnCb (h : Handle) (d : ContDesc) : (h.withContDesc d).fnCb = h.fnCb := rfl
@[simp] theorem Handle.withContDesc_irqMask (h : Handle) (d : ContDesc) : (h.withContDesc d).irqMask = h.irqMask := rfl

@[simp] theorem Handle.withPhase_instanceId (h : Handle) (r : RegAddr) (b v : Word) (n : Nat) : (h.withPhase r b v n).instanceId = h.instanceId := rfl
@[simp] theorem Handle.withPhase_globalState (h : Handle) (r : RegAddr) (b v : Word) (n : Nat) : (h.withPhase r b v n).globalState = h.globalState := rfl
@[simp] theorem Handle.withPhase_context (h : Handle) (r : RegAddr) (b v : Word) (n : Nat) : (h.withPhase r b v n).context = h.context := rfl
@[simp] theorem Handle.withPhase_identState (h : Handle) (r : RegAddr) (b v : Word) (n : Nat) : (h.withPhase r b v n).identState = h.identState := rfl
@[simp] theorem Handle.withPhase_blockSize (h : Handle) (r : RegAddr) (b v : Word) (n : Nat) : (h.withPhase r b v n).blockSize = h.blockSize := rfl
@[simp] theorem Handle.withPhase_dataTimeoutCycles (h : Handle) (r : RegAddr) (b v : Word) (n : Nat) : (h.withPhase r b v n).dataTimeoutCycles = h.dataTimeoutCycles := rfl
@[simp] theorem Handle.withPhase_transceiverMode (h : Handle) (r : RegAddr) (b v : Word) (n : Nat) : (h.withPhase r b v n).transceiverMode = h.transceiverMode := rfl
@[simp] theorem Handle.withPhase_lastErrorCodes (h : Handle) (r : RegAddr) (b v : Word) (n : Nat) : (h.withPhase r b v n).lastErrorCodes = h.lastErrorCodes := rfl
@[simp] theorem Handle.withPhase_remainingData (h : Handle) (r : RegAddr) (b v : Word) (n : Nat) : (h.withPhase r b v n).remainingData = v - BitVec.ofNat 32 n := rfl
@[simp] theorem Handle.withPhase_nextRegAddr (h : Handle) (r : RegAddr) (b v : Word) (n : Nat) : (h.withPhase r b v n).nextRegAddr = nextReg h.contDesc.opCode r n := rfl
@[simp] theorem Handle.withPhase_nextDataAddr (h : Handle) (r : RegAddr) (b v : Word) (n : Nat) : (h.withPhase r b v n).nextDataAddr = b + BitVec.ofNat 32 n := rfl
@[simp] theorem Handle.withPhase_xferSize (h : Handle) (r : RegAddr) (b v : Word) (n : Nat) : (h.withPhase r b v n).xferSize = BitVec.ofNat 32 n := rfl
@[simp] theorem Handle.withPhase_pXferBuff (h : Handle) (r : RegAddr) (b v : Word) (n : Nat) : (h.withPhase r b v n).pXferBuff = b := rfl
@[simp] theorem Handle.withPhase_contDesc (h : Handle) (r : RegAddr) (b v : Word) (n : Nat) : (h.withPhase r b v n).contDesc = h.contDesc := rfl
@[simp] theorem Handle.withPhase_fnIrqCount (h : Handle) (r : RegAddr) (b v : Word) (n : Nat) : (h.withPhase r b v n).fnIrqCount = h.fnIrqCount := rfl
@[simp] theorem Handle.withPhase_fnIrqMask (h : Handle) (r : RegAddr) (b v : Word) (n : Nat) : (h.withPhase r b v n).fnIrqMask = h.fnIrqMask := rfl
@[simp] theorem Handle.withPhase_cfg (h : Handle) (r : RegAddr) (b v : Word) (n : Nat) : (h.withPhase r b v n).cfg = h.cfg := rfl
@[simp] theorem Handle.withPhase_cbRxComplete (h : Handle) (r : RegAddr) (b v : Word) (n : Nat) : (h.withPhase r b v n).cbRxComplete = h.cbRxComplete := rfl
@[simp] theorem Handle.withPhase_cbTxComplete (h : Handle) (r : RegAddr) (b v : Word) (n : Nat) : (h.withPhase r b v n).cbTxComplete = h.cbTxComplete := rfl
@[simp] theorem Handle.withPhase_cbError (h : Handle) (r : RegAddr) (b v : Word) (n : Nat) : (h.withPhase r b v n).cbError = h.cbError := rfl
@[simp] theorem Handle.withPhase_cbTransceiver (h : Handle) (r : RegAddr) (b v : Word) (n : Nat) : (h.withPhase r b v n).cbTransceiver = h.cbTransceiver := rfl
@[simp] theorem Handle.withPhase_fnCb (h : Handle) (r : RegAddr) (b v : Word) (n : Nat) : (h.withPhase r b v n).fnCb = h.fnCb := rfl
@[simp] theorem Handle.withPhase_irqMask (h : Handle) (r : RegAddr) (b v : Word) (n : Nat) : (h.withPhase r b v n).irqMask = h.irqMask := rfl

/-! ### State updates -/

@[simp] theorem State.logged_h (s : State) (a : PortAction) : (s.logged a).h = s.h := rfl
@[simp] theorem State.logged_params (s : State) (a : PortAction) : (s.logged a).params = s.params := rfl
@[simp] theorem State.logged_mem (s : State) (a : PortAction) : (s.logged a).mem = s.mem := rfl
@[simp] theorem State.logged_requests (s : State) (a : PortAction) : (s.logged a).requests = s.requests := rfl
@[simp] theorem State.logged_response (s : State) (a : PortAction) : (s.logged a).response = s.response := rfl
@[simp] theorem State.logged_trace (s : State) (a : PortAction) : (s.logged a).trace = a :: s.trace := rfl
@[simp] theorem State.logged_dpath (s : State) (a : PortAction) : (s.logged a).dpath = s.dpath := rfl
@[simp] theorem State.logged_dma (s : State) (a : PortAction) : (s.logged a).dma = s.dma := rfl
@[simp] theorem State.logged_bus (s : State) (a : PortAction) : (s.logged a).bus = s.bus := rfl
@[simp] theorem State.logged_env (s : State) (a : PortAction) : (s.logged a).env = s.env := rfl

/-! ### Environment updates -/

@[simp] theorem Env.afterCmd_flags (e : Env) : (e.afterCmd).flags = e.flags := by
  unfold Env.afterCmd; split <;> simp_all
@[simp] theorem Env.afterCmd_flagScript (e : Env) : (e.afterCmd).flagScript = e.flagScript := by
  unfold Env.afterCmd; split <;> simp_all
@[simp] theorem Env.afterCmd_cmdScript (e : Env) : (e.afterCmd).cmdScript = e.cmdScript.tail := by
  unfold Env.afterCmd; split <;> simp_all
@[simp] theorem Env.afterCmd_fifoRx (e : Env) : (e.afterCmd).fifoRx = e.fifoRx := by
  unfold Env.afterCmd; split <;> simp_all
@[simp] theorem Env.afterCmd_fifoTx (e : Env) : (e.afterCmd).fifoTx = e.fifoTx := by
  unfold Env.afterCmd; split <;> simp_all
@[simp] theorem Env.afterCmd_clockScript (e : Env) : (e.afterCmd).clockScript = e.clockScript := by
  unfold Env.afterCmd; split <;> simp_all
@[simp] theorem Env.afterCmd_tick (e : Env) : (e.afterCmd).tick = e.tick := by
  unfold Env.afterCmd; split <;> simp_all
@[simp] theorem Env.afterCmd_tickOwed (e : Env) : (e.afterCmd).tickOwed = e.tickOwed := by
  unfold Env.afterCmd; split <;> simp_all
@[simp] theorem Env.afterCmd_tickScript (e : Env) : (e.afterCmd).tickScript = e.tickScript := by
  unfold Env.afterCmd; split <;> simp_all
@[simp] theorem Env.afterCmd_dmaScript (e : Env) : (e.afterCmd).dmaScript = e.dmaScript := by
  unfold Env.afterCmd; split <;> simp_all
@[simp] theorem Env.afterCmd_irqSchedule (e : Env) : (e.afterCmd).irqSchedule = e.irqSchedule := by
  unfold Env.afterCmd; split <;> simp_all
@[simp] theorem Env.afterCmd_txFullScript (e : Env) : (e.afterCmd).txFullScript = e.txFullScript := by
  unfold Env.afterCmd; split <;> simp_all
@[simp] theorem Env.afterCmd_callbackScript (e : Env) : (e.afterCmd).callbackScript = e.callbackScript := by
  unfold Env.afterCmd; split <;> simp_all
@[simp] theorem Env.afterCmd_waitBudget (e : Env) : (e.afterCmd).waitBudget = e.waitBudget := by
  unfold Env.afterCmd; split <;> simp_all

@[simp] theorem Env.afterSample_flags (e : Env) (b : Bool) : (e.afterSample b).flags = flagSample e.flags e.raised b := by
  unfold Env.afterSample; split <;> simp_all
@[simp] theorem Env.afterSample_flagScript (e : Env) (b : Bool) : (e.afterSample b).flagScript = e.flagScript.tail := by
  unfold Env.afterSample; split <;> simp_all
@[simp] theorem Env.afterSample_cmdScript (e : Env) (b : Bool) : (e.afterSample b).cmdScript = e.cmdScript := by
  unfold Env.afterSample; split <;> simp_all
@[simp] theorem Env.afterSample_fifoRx (e : Env) (b : Bool) : (e.afterSample b).fifoRx = e.fifoRx := by
  unfold Env.afterSample; split <;> simp_all
@[simp] theorem Env.afterSample_fifoTx (e : Env) (b : Bool) : (e.afterSample b).fifoTx = e.fifoTx := by
  unfold Env.afterSample; split <;> simp_all
@[simp] theorem Env.afterSample_clockScript (e : Env) (b : Bool) : (e.afterSample b).clockScript = e.clockScript := by
  unfold Env.afterSample; split <;> simp_all
@[simp] theorem Env.afterSample_tick (e : Env) (b : Bool) : (e.afterSample b).tick = e.tick := by
  unfold Env.afterSample; split <;> simp_all
@[simp] theorem Env.afterSample_tickOwed (e : Env) (b : Bool) : (e.afterSample b).tickOwed = e.tickOwed := by
  unfold Env.afterSample; split <;> simp_all
@[simp] theorem Env.afterSample_tickScript (e : Env) (b : Bool) : (e.afterSample b).tickScript = e.tickScript := by
  unfold Env.afterSample; split <;> simp_all
@[simp] theorem Env.afterSample_dmaScript (e : Env) (b : Bool) : (e.afterSample b).dmaScript = e.dmaScript := by
  unfold Env.afterSample; split <;> simp_all
@[simp] theorem Env.afterSample_irqSchedule (e : Env) (b : Bool) : (e.afterSample b).irqSchedule = e.irqSchedule := by
  unfold Env.afterSample; split <;> simp_all
@[simp] theorem Env.afterSample_txFullScript (e : Env) (b : Bool) : (e.afterSample b).txFullScript = e.txFullScript := by
  unfold Env.afterSample; split <;> simp_all
@[simp] theorem Env.afterSample_callbackScript (e : Env) (b : Bool) : (e.afterSample b).callbackScript = e.callbackScript := by
  unfold Env.afterSample; split <;> simp_all
@[simp] theorem Env.afterSample_waitBudget (e : Env) (b : Bool) : (e.afterSample b).waitBudget = e.waitBudget := by
  unfold Env.afterSample; split <;> simp_all

@[simp] theorem Env.afterClock_flags (e : Env) : (e.afterClock).flags = e.flags := by
  unfold Env.afterClock; split <;> simp_all
@[simp] theorem Env.afterClock_flagScript (e : Env) : (e.afterClock).flagScript = e.flagScript := by
  unfold Env.afterClock; split <;> simp_all
@[simp] theorem Env.afterClock_cmdScript (e : Env) : (e.afterClock).cmdScript = e.cmdScript := by
  unfold Env.afterClock; split <;> simp_all
@[simp] theorem Env.afterClock_fifoRx (e : Env) : (e.afterClock).fifoRx = e.fifoRx := by
  unfold Env.afterClock; split <;> simp_all
@[simp] theorem Env.afterClock_fifoTx (e : Env) : (e.afterClock).fifoTx = e.fifoTx := by
  unfold Env.afterClock; split <;> simp_all
@[simp] theorem Env.afterClock_clockScript (e : Env) : (e.afterClock).clockScript = e.clockScript.tail := by
  unfold Env.afterClock; split <;> simp_all
@[simp] theorem Env.afterClock_tick (e : Env) : (e.afterClock).tick = e.tick := by
  unfold Env.afterClock; split <;> simp_all
@[simp] theorem Env.afterClock_tickOwed (e : Env) : (e.afterClock).tickOwed = e.tickOwed := by
  unfold Env.afterClock; split <;> simp_all
@[simp] theorem Env.afterClock_tickScript (e : Env) : (e.afterClock).tickScript = e.tickScript := by
  unfold Env.afterClock; split <;> simp_all
@[simp] theorem Env.afterClock_dmaScript (e : Env) : (e.afterClock).dmaScript = e.dmaScript := by
  unfold Env.afterClock; split <;> simp_all
@[simp] theorem Env.afterClock_irqSchedule (e : Env) : (e.afterClock).irqSchedule = e.irqSchedule := by
  unfold Env.afterClock; split <;> simp_all
@[simp] theorem Env.afterClock_txFullScript (e : Env) : (e.afterClock).txFullScript = e.txFullScript := by
  unfold Env.afterClock; split <;> simp_all
@[simp] theorem Env.afterClock_callbackScript (e : Env) : (e.afterClock).callbackScript = e.callbackScript := by
  unfold Env.afterClock; split <;> simp_all
@[simp] theorem Env.afterClock_waitBudget (e : Env) : (e.afterClock).waitBudget = e.waitBudget := by
  unfold Env.afterClock; split <;> simp_all

@[simp] theorem Env.afterTick_flags (e : Env) : (e.afterTick).flags = e.flags := by
  unfold Env.afterTick; split <;> simp_all
@[simp] theorem Env.afterTick_flagScript (e : Env) : (e.afterTick).flagScript = e.flagScript := by
  unfold Env.afterTick; split <;> simp_all
@[simp] theorem Env.afterTick_cmdScript (e : Env) : (e.afterTick).cmdScript = e.cmdScript := by
  unfold Env.afterTick; split <;> simp_all
@[simp] theorem Env.afterTick_fifoRx (e : Env) : (e.afterTick).fifoRx = e.fifoRx := by
  unfold Env.afterTick; split <;> simp_all
@[simp] theorem Env.afterTick_fifoTx (e : Env) : (e.afterTick).fifoTx = e.fifoTx := by
  unfold Env.afterTick; split <;> simp_all
@[simp] theorem Env.afterTick_clockScript (e : Env) : (e.afterTick).clockScript = e.clockScript := by
  unfold Env.afterTick; split <;> simp_all
@[simp] theorem Env.afterTick_tick (e : Env) : (e.afterTick).tick = e.nextTick := by
  unfold Env.afterTick; split <;> simp_all
@[simp] theorem Env.afterTick_tickOwed (e : Env) : (e.afterTick).tickOwed = 0 := by
  unfold Env.afterTick; split <;> simp_all
@[simp] theorem Env.afterTick_tickScript (e : Env) : (e.afterTick).tickScript = e.tickScript.tail := by
  unfold Env.afterTick; split <;> simp_all
@[simp] theorem Env.afterTick_dmaScript (e : Env) : (e.afterTick).dmaScript = e.dmaScript := by
  unfold Env.afterTick; split <;> simp_all
@[simp] theorem Env.afterTick_irqSchedule (e : Env) : (e.afterTick).irqSchedule = e.irqSchedule := by
  unfold Env.afterTick; split <;> simp_all
@[simp] theorem Env.afterTick_txFullScript (e : Env) : (e.afterTick).txFullScript = e.txFullScript := by
  unfold Env.afterTick; split <;> simp_all
@[simp] theorem Env.afterTick_callbackScript (e : Env) : (e.afterTick).callbackScript = e.callbackScript := by
  unfold Env.afterTick; split <;> simp_all
@[simp] theorem Env.afterTick_waitBudget (e : Env) : (e.afterTick).waitBudget = e.waitBudget := by
  unfold Env.afterTick; split <;> simp_all

@[simp] theorem Env.afterFifoRead_flags (e : Env) : (e.afterFifoRead).flags = e.flags := by
  unfold Env.afterFifoRead; split <;> simp_all
@[simp] theorem Env.afterFifoRead_flagScript (e : Env) : (e.afterFifoRead).flagScript = e.flagScript := by
  unfold Env.afterFifoRead; split <;> simp_all
@[simp] theorem Env.afterFifoRead_cmdScript (e : Env) : (e.afterFifoRead).cmdScript = e.cmdScript := by
  unfold Env.afterFifoRead; split <;> simp_all
@[simp] theorem Env.afterFifoRead_fifoRx (e : Env) : (e.afterFifoRead).fifoRx = e.fifoRx.tail := by
  unfold Env.afterFifoRead; split <;> simp_all
@[simp] theorem Env.afterFifoRead_fifoTx (e : Env) : (e.afterFifoRead).fifoTx = e.fifoTx := by
  unfold Env.afterFifoRead; split <;> simp_all
@[simp] theorem Env.afterFifoRead_clockScript (e : Env) : (e.afterFifoRead).clockScript = e.clockScript := by
  unfold Env.afterFifoRead; split <;> simp_all
@[simp] theorem Env.afterFifoRead_tick (e : Env) : (e.afterFifoRead).tick = e.tick := by
  unfold Env.afterFifoRead; split <;> simp_all
@[simp] theorem Env.afterFifoRead_tickOwed (e : Env) : (e.afterFifoRead).tickOwed = e.tickOwed := by
  unfold Env.afterFifoRead; split <;> simp_all
@[simp] theorem Env.afterFifoRead_tickScript (e : Env) : (e.afterFifoRead).tickScript = e.tickScript := by
  unfold Env.afterFifoRead; split <;> simp_all
@[simp] theorem Env.afterFifoRead_dmaScript (e : Env) : (e.afterFifoRead).dmaScript = e.dmaScript := by
  unfold Env.afterFifoRead; split <;> simp_all
@[simp] theorem Env.afterFifoRead_irqSchedule (e : Env) : (e.afterFifoRead).irqSchedule = e.irqSchedule := by
  unfold Env.afterFifoRead; split <;> simp_all
@[simp] theorem Env.afterFifoRead_txFullScript (e : Env) : (e.afterFifoRead).txFullScript = e.txFullScript := by
  unfold Env.afterFifoRead; split <;> simp_all
@[simp] theorem Env.afterFifoRead_callbackScript (e : Env) : (e.afterFifoRead).callbackScript = e.callbackScript := by
  unfold Env.afterFifoRead; split <;> simp_all
@[simp] theorem Env.afterFifoRead_waitBudget (e : Env) : (e.afterFifoRead).waitBudget = e.waitBudget := by
  unfold Env.afterFifoRead; split <;> simp_all

@[simp] theorem Env.afterFifoWrite_flags (e : Env) (w : Word) : (e.afterFifoWrite w).flags = e.flags := by
  unfold Env.afterFifoWrite; split <;> simp_all
@[simp] theorem Env.afterFifoWrite_flagScript (e : Env) (w : Word) : (e.afterFifoWrite w).flagScript = e.flagScript := by
  unfold Env.afterFifoWrite; split <;> simp_all
@[simp] theorem Env.afterFifoWrite_cmdScript (e : Env) (w : Word) : (e.afterFifoWrite w).cmdScript = e.cmdScript := by
  unfold Env.afterFifoWrite; split <;> simp_all
@[simp] theorem Env.afterFifoWrite_fifoRx (e : Env) (w : Word) : (e.afterFifoWrite w).fifoRx = e.fifoRx := by
  unfold Env.afterFifoWrite; split <;> simp_all
@[simp] theorem Env.afterFifoWrite_fifoTx (e : Env) (w : Word) : (e.afterFifoWrite w).fifoTx = e.pushed w := by
  unfold Env.afterFifoWrite; split <;> simp_all
@[simp] theorem Env.afterFifoWrite_txFullScript (e : Env) (w : Word) : (e.afterFifoWrite w).txFullScript = e.txFullScript.tail := by
  unfold Env.afterFifoWrite; split <;> simp_all
@[simp] theorem Env.afterFifoWrite_clockScript (e : Env) (w : Word) : (e.afterFifoWrite w).clockScript = e.clockScript := by
  unfold Env.afterFifoWrite; split <;> simp_all
@[simp] theorem Env.afterFifoWrite_tick (e : Env) (w : Word) : (e.afterFifoWrite w).tick = e.tick := by
  unfold Env.afterFifoWrite; split <;> simp_all
@[simp] theorem Env.afterFifoWrite_tickOwed (e : Env) (w : Word) : (e.afterFifoWrite w).tickOwed = e.tickOwed := by
  unfold Env.afterFifoWrite; split <;> simp_all
@[simp] theorem Env.afterFifoWrite_tickScript (e : Env) (w : Word) : (e.afterFifoWrite w).tickScript = e.tickScript := by
  unfold Env.afterFifoWrite; split <;> simp_all
@[simp] theorem Env.afterFifoWrite_dmaScript (e : Env) (w : Word) : (e.afterFifoWrite w).dmaScript = e.dmaScript := by
  unfold Env.afterFifoWrite; split <;> simp_all
@[simp] theorem Env.afterFifoWrite_irqSchedule (e : Env) (w : Word) : (e.afterFifoWrite w).irqSchedule = e.irqSchedule := by
  unfold Env.afterFifoWrite; split <;> simp_all
@[simp] theorem Env.afterFifoWrite_callbackScript (e : Env) (w : Word) : (e.afterFifoWrite w).callbackScript = e.callbackScript := by
  unfold Env.afterFifoWrite; split <;> simp_all
@[simp] theorem Env.afterFifoWrite_waitBudget (e : Env) (w : Word) : (e.afterFifoWrite w).waitBudget = e.waitBudget := by
  unfold Env.afterFifoWrite; split <;> simp_all

@[simp] theorem Env.afterCallback_flags (e : Env) : (e.afterCallback).flags = e.flags := rfl
@[simp] theorem Env.afterCallback_flagScript (e : Env) : (e.afterCallback).flagScript = e.flagScript := rfl
@[simp] theorem Env.afterCallback_cmdScript (e : Env) : (e.afterCallback).cmdScript = e.cmdScript := rfl
@[simp] theorem Env.afterCallback_fifoRx (e : Env) : (e.afterCallback).fifoRx = e.fifoRx := rfl
@[simp] theorem Env.afterCallback_fifoTx (e : Env) : (e.afterCallback).fifoTx = e.fifoTx := rfl
@[simp] theorem Env.afterCallback_txFullScript (e : Env) : (e.afterCallback).txFullScript = e.txFullScript := rfl
@[simp] theorem Env.afterCallback_clockScript (e : Env) : (e.afterCallback).clockScript = e.clockScript := rfl
@[simp] theorem Env.afterCallback_tick (e : Env) : (e.afterCallback).tick = e.tick := rfl
@[simp] theorem Env.afterCallback_tickOwed (e : Env) : (e.afterCallback).tickOwed = e.tickOwed := rfl
@[simp] theorem Env.afterCallback_tickScript (e : Env) : (e.afterCallback).tickScript = e.tickScript := rfl
@[simp] theorem Env.afterCallback_dmaScript (e : Env) : (e.afterCallback).dmaScript = e.dmaScript := rfl
@[simp] theorem Env.afterCallback_irqSchedule (e : Env) : (e.afterCallback).irqSchedule = e.irqSchedule := rfl
@[simp] theorem Env.afterCallback_callbackScript (e : Env) : (e.afterCallback).callbackScript = e.callbackScript.tail := rfl
@[simp] theorem Env.afterCallback_waitBudget (e : Env) : (e.afterCallback).waitBudget = e.waitBudget := rfl
@[simp] theorem Env.afterCallback_drawn (e : Env) : (e.afterCallback).drawn = e.drawn := rfl

@[simp] theorem State.atPoint_h (s : State) (q : IrqPoint) (r : List IrqPoint) : (s.atPoint q r).h = s.h := rfl
@[simp] theorem State.atPoint_params (s : State) (q : IrqPoint) (r : List IrqPoint) : (s.atPoint q r).params = s.params := rfl
@[simp] theorem State.atPoint_mem (s : State) (q : IrqPoint) (r : List IrqPoint) : (s.atPoint q r).mem = s.mem := rfl
@[simp] theorem State.atPoint_requests (s : State) (q : IrqPoint) (r : List IrqPoint) : (s.atPoint q r).requests = s.requests := rfl
@[simp] theorem State.atPoint_response (s : State) (q : IrqPoint) (r : List IrqPoint) : (s.atPoint q r).response = s.response := rfl
@[simp] theorem State.atPoint_trace (s : State) (q : IrqPoint) (r : List IrqPoint) : (s.atPoint q r).trace = s.trace := rfl
@[simp] theorem State.atPoint_dpath (s : State) (q : IrqPoint) (r : List IrqPoint) : (s.atPoint q r).dpath = s.dpath := rfl
@[simp] theorem State.atPoint_dma (s : State) (q : IrqPoint) (r : List IrqPoint) : (s.atPoint q r).dma = s.dma := rfl
@[simp] theorem State.atPoint_bus (s : State) (q : IrqPoint) (r : List IrqPoint) : (s.atPoint q r).bus = s.bus := rfl
@[simp] theorem State.atPoint_irqSchedule (s : State) (q : IrqPoint) (r : List IrqPoint) :
    (s.atPoint q r).env.irqSchedule = r := rfl
@[simp] theorem State.atPoint_flags (s : State) (q : IrqPoint) (r : List IrqPoint) :
    (s.atPoint q r).env.flags = flagSample s.env.flags q.rises s.bus.sdioOp := rfl
@[simp] theorem State.atPoint_callbackScript (s : State) (q : IrqPoint) (r : List IrqPoint) :
    (s.atPoint q r).env.callbackScript = s.env.callbackScript := rfl

end Sys2Proof.Machine
end

