-- ==== Sys2Proof/Laws/Act.lean ====
section
/-! SUPPORT. How the pieces of an operation run: one lemma per combinator, and each port action with no interrupt taken. -/

-- one thread: the package compiles as one text
set_option Elab.async false

namespace Sys2Proof.Machine

section
variable {α β : Type}

@[simp] theorem bind_apply (m : Act α) (f : α → Act β) (s : State) :
    (m >>= f) s = match m s with
      | .ok r => f r.1 r.2
      | .error e => .error e := by
  show (m s >>= fun r => f r.1 r.2) = _
  cases m s <;> rfl

@[simp] theorem pure_apply (a : α) (s : State) : (pure a : Act α) s = .ok (a, s) := rfl

@[simp] theorem map_apply (g : α → β) (m : Act α) (s : State) :
    (g <$> m) s = match m s with
      | .ok r => .ok (g r.1, r.2)
      | .error e => .error e := by
  show (m s >>= fun r => pure (g r.1, r.2)) = _
  cases m s <;> rfl

@[simp] theorem get_apply (s : State) : (get : Act State) s = .ok (s, s) := rfl

@[simp] theorem upd_apply (f : State → State) (s : State) : upd f s = .ok ((), f s) := rfl

@[simp] theorem updH_apply (f : Handle → Handle) (s : State) : updH f s = .ok ((), { s with h := f s.h }) := rfl

@[simp] theorem stop_apply (f : Fault) (s : State) : (stop f : Act α) s = .error f := rfl

@[simp] theorem noPoint_apply (s : State) : noPoint s = .ok ((), s) := rfl

@[simp] theorem via_noPoint (p : Act α) (s : State) : via noPoint p s = p s := rfl

@[simp] theorem ite_run (c : Prop) [Decidable c] (m n : Act α) (s : State) :
    (if c then m else n) s = if c then m s else n s := by split <;> rfl

/-- With no interruption point scheduled nothing happens at one. -/
theorem irqPoint_quiet {s : State} (h : s.env.irqSchedule = []) : irqPoint s = .ok ((), s) := by
  simp [irqPoint, irqRun, h]

/-- With no interruption point scheduled a port action runs alone. -/
@[simp] theorem via_quiet (p : Act α) {s : State} (h : s.env.irqSchedule = []) : via irqPoint p s = p s := by
  simp [via, irqPoint_quiet h]

@[simp] theorem respond_apply (st : Word) (vals : List Word) (s : State) :
    respond st vals s = .ok ((), { s with response := st :: vals, trace := .respond (st :: vals) :: s.trace }) := rfl

@[simp] theorem raiseErr_apply (code : Word) (s : State) :
    raiseErr code s = .ok ((), { s with
      h := s.h.orErrors code, response := [stError], trace := .respond [stError] :: s.trace }) := rfl

@[simp] theorem idleOk_apply (vals : List Word) (s : State) :
    idleOk vals s = .ok ((), { s with
      h := s.h.withGlobal .idle, response := stOk :: vals, trace := .respond (stOk :: vals) :: s.trace }) := rfl

@[simp] theorem idleError_apply (err : Word) (s : State) :
    idleError err s = .ok ((), { s with
      h := (s.h.withGlobal .idle).orErrors (errmap err), response := [stError],
      trace := .respond [stError] :: s.trace }) := rfl

end

section
variable (s : State)

@[simp] theorem portCmd_apply (idx : BitVec 6) (arg : Word) :
    portCmd idx arg s = .ok (s.env.cmdAnswer, { s with env := s.env.afterCmd, trace := .cmd idx arg :: s.trace }) := rfl

@[simp] theorem portFlags_apply :
    portFlags s = .ok (flagSample s.env.flags s.env.raised s.bus.sdioOp,
      { s with env := s.env.afterSample s.bus.sdioOp, trace := .flags :: s.trace }) := rfl

@[simp] theorem portFlagClear_apply (mask : Word) :
    portFlagClear mask s = .ok ((), { s with
      env := { s.env with flags := flagsCleared s.env.flags mask }, trace := .flagClear mask :: s.trace }) := rfl

@[simp] theorem portIrqEnable_apply (mask : Word) :
    portIrqEnable mask s = .ok ((), { s with
      h := s.h.withIrqMask (s.h.irqMask ||| mask), trace := .irqEnable mask :: s.trace }) := rfl

@[simp] theorem portIrqDisable_apply (mask : Word) :
    portIrqDisable mask s = .ok ((), { s with
      h := s.h.withIrqMask (s.h.irqMask &&& ~~~mask), trace := .irqDisable mask :: s.trace }) := rfl

@[simp] theorem portClockHz_apply :
    portClockHz s = .ok (s.env.clock, { s with env := s.env.afterClock, trace := .clockHz :: s.trace }) := rfl

@[simp] theorem portTick_apply :
    portTick s = .ok (s.env.nextTick, { s with env := s.env.afterTick, trace := .tick :: s.trace }) := rfl

@[simp] theorem portFifoWrite_apply (w : Word) :
    portFifoWrite w s = .ok ((), { s with env := s.env.afterFifoWrite w, trace := .fifoWrite w :: s.trace }) := rfl

@[simp] theorem portFifoRead_apply :
    portFifoRead s = .ok (s.env.fifoWord, { s with env := s.env.afterFifoRead, trace := .fifoRead :: s.trace }) := rfl

end

end Sys2Proof.Machine
end

