-- ==== Sys2Proof/Laws/Memory.lean ====
section
/-! SUPPORT. The laws of host buffer memory: a read after a write, and the canonical form kept by every operation. -/

-- one thread: the package compiles as one text
set_option Elab.async false

namespace Sys2Proof.Machine

theorem Memory.wf_cons {c : Nat} {v : Byte} {m : Memory} :
    Memory.wf ((c, v) :: m) = true ↔
      c < 2 ^ 32 ∧ v ≠ Config.blankByte ∧ (∀ e ∈ m, c < e.1) ∧ m.wf = true := by
  simp only [Memory.wf, Bool.and_eq_true, decide_eq_true_eq, bne_iff_ne, List.all_eq_true]
  tauto

/-- An address below every listed one reads as an unlisted byte. -/
theorem Memory.read_of_lt {m : Memory} {a : Nat} (h : ∀ e ∈ m, a < e.1) : m.read a = Config.blankByte := by
  induction m with
  | nil => rfl
  | cons e m ih =>
    obtain ⟨c, v⟩ := e
    have hc : a < c := h (c, v) (by simp)
    simp only [Memory.read, if_neg (Nat.ne_of_gt hc)]
    exact ih fun e he => h e (by simp [he])

theorem Memory.read_write_same {m : Memory} (hm : m.wf = true) (a : Nat) (b : Byte) : (m.write a b).read a = b := by
  induction m with
  | nil => simp only [Memory.write]; split <;> simp_all [Memory.read]
  | cons e m ih =>
    obtain ⟨c, v⟩ := e
    obtain ⟨-, -, hlt, hw⟩ := Memory.wf_cons.mp hm
    simp only [Memory.write]
    split
    · split
      · rename_i hac hb
        rw [hb]
        exact Memory.read_of_lt fun e he => by
          rcases List.mem_cons.mp he with rfl | he
          · exact hac
          · exact hac.trans (hlt e he)
      · simp [Memory.read]
    · split
      · split
        · rename_i hac hb
          rw [hb, hac]
          exact Memory.read_of_lt hlt
        · simp [Memory.read]
      · rename_i h1 h2
        simp only [Memory.read, if_neg (Ne.symm h2)]
        exact ih hw

theorem Memory.read_write_other {m : Memory} {a a' : Nat} (h : a' ≠ a) (b : Byte) :
    (m.write a b).read a' = m.read a' := by
  induction m with
  | nil => simp only [Memory.write]; split <;> simp [Memory.read, Ne.symm h]
  | cons e m ih =>
    obtain ⟨c, v⟩ := e
    simp only [Memory.write]
    split
    · split <;> simp [Memory.read, Ne.symm h]
    · split
      · rename_i hac
        split <;> simp [Memory.read, Ne.symm h, ← hac]
      · simp only [Memory.read, ih]

/-- A write lists no address but its own and those listed before. -/
theorem Memory.mem_write {m : Memory} {a : Nat} {b : Byte} {e : Host.Cell} (h : e ∈ m.write a b) :
    e = (a, b) ∨ e ∈ m := by
  induction m with
  | nil => simp only [Memory.write] at h; split at h <;> simp_all
  | cons d m ih =>
    obtain ⟨c, v⟩ := d
    simp only [Memory.write] at h
    split at h
    · split at h <;> simp_all
    · split at h
      · split at h
        · exact .inr (by simp [h])
        · rcases List.mem_cons.mp h with h | h
          · exact .inl h
          · exact .inr (by simp [h])
      · rcases List.mem_cons.mp h with h | h
        · exact .inr (by simp [h])
        · rcases ih h with h | h
          · exact .inl h
          · exact .inr (by simp [h])

theorem Memory.wf_write {m : Memory} (hm : m.wf = true) {a : Nat} (ha : a < 2 ^ 32) (b : Byte) :
    (m.write a b).wf = true := by
  induction m with
  | nil =>
    simp only [Memory.write]
    split
    · rfl
    · rename_i hb
      exact Memory.wf_cons.mpr ⟨ha, hb, by simp, rfl⟩
  | cons e m ih =>
    obtain ⟨c, v⟩ := e
    obtain ⟨hc, hv, hlt, hw⟩ := Memory.wf_cons.mp hm
    simp only [Memory.write]
    split
    · split
      · exact hm
      · rename_i hac hb
        refine Memory.wf_cons.mpr ⟨ha, hb, fun e he => ?_, hm⟩
        rcases List.mem_cons.mp he with rfl | he
        · exact hac
        · exact hac.trans (hlt e he)
    · split
      · split
        · exact hw
        · rename_i hac hb
          exact Memory.wf_cons.mpr ⟨ha, hb, fun e he => hac ▸ hlt e he, hw⟩
      · rename_i h1 h2
        refine Memory.wf_cons.mpr ⟨hc, hv, fun e he => ?_, ih hw⟩
        rcases Memory.mem_write he with rfl | he
        · exact lt_of_le_of_ne (Nat.le_of_not_lt h1) (Ne.symm h2)
        · exact hlt e he

theorem Memory.wf_writeBytes {m : Memory} (hm : m.wf = true) (a : Word) (bs : List Byte) :
    (m.writeBytes a bs).wf = true := by
  induction bs generalizing m a with
  | nil => exact hm
  | cons b bs ih => exact ih (Memory.wf_write hm a.isLt b) (a + 1)

/-- An address none of the written bytes goes to reads as before. -/
theorem Memory.read_writeBytes_other (m : Memory) (a : Word) (bs : List Byte) (x : Nat)
    (h : ∀ j < bs.length, x ≠ (a + BitVec.ofNat 32 j).toNat) : (m.writeBytes a bs).read x = m.read x := by
  induction bs generalizing m a with
  | nil => rfl
  | cons b bs ih =>
    simp only [Memory.writeBytes]
    rw [ih]
    · have h0 := h 0 (by simp)
      exact Memory.read_write_other (by simpa using h0) b
    · intro j hj
      have := h (j + 1) (by simp only [List.length_cons]; omega)
      rw [BitVec.add_assoc]
      convert this using 4
      simp only [BitVec.ofNat_add]
      exact BitVec.add_comm _ _

/-- The memory after reset is in canonical form. -/
theorem Memory.wf_reset : State.reset.mem.wf = true := rfl

end Sys2Proof.Machine
end

