-- ==== Sys2Proof/Laws/Interrupt.lean ====
section
/-! SUPPORT. What taking the interrupt can do: nothing but error bits while no terminal source is enabled, and the end or
the next phase of the DMA request otherwise. Callers cite these and never unfold the handler. -/

-- one thread: the package compiles as one text
set_option Elab.async false

namespace Sys2Proof.Machine

/-! ### The events with no callback scripted -/

@[simp] theorem submitDuring_nil (s : State) : submitDuring [] s = .ok ((), s) := rfl

@[simp] theorem submitToPort_nil (s : State) : submitToPort [] s = .ok ((), s) := by simp [submitToPort]

theorem emit_noCallbacks {submit : List Instr → Act Unit} (h0 : ∀ u, submit [] u = .ok ((), u)) (k : EventKind) {s : State}
    (h : s.noCallbacks) : emit submit k s = .ok ((), s.logged (.emit ⟨k, s.h.eventArg k, s.h.slot k⟩)) := by
  have h' : s.env.callbackScript = [] := h
  have he : s.env.afterCallback = s.env := by
    show { s.env with callbackScript := s.env.callbackScript.tail } = s.env
    rw [h', List.tail_nil, ← h']
  by_cases hk : s.h.slot k = 0 <;> simp [emit, runCallback, State.logged, Env.submission, h', he, h0, hk]

/-- The trace after a list of events: the events in order, newest first. -/
theorem emitAll_noCallbacks {submit : List Instr → Act Unit} (h0 : ∀ u, submit [] u = .ok ((), u)) (ks : List EventKind)
    {s : State} (h : s.noCallbacks) :
    emitAll submit ks s = .ok ((), { s with
      trace := (ks.map fun k => PortAction.emit ⟨k, s.h.eventArg k, s.h.slot k⟩).reverse ++ s.trace }) := by
  induction ks generalizing s with
  | nil => rfl
  | cons k ks ih =>
    have h1 := ih (s := s.logged (.emit ⟨k, s.h.eventArg k, s.h.slot k⟩)) h
    simp only [State.logged] at h1
    simp [emitAll, emit_noCallbacks h0 k h, h1, State.logged]

/-! ### Error bits -/

/-- The error bits are the bits 7:0 (R320). -/
theorem errmap_low (e : Word) : errmap e &&& 0xFFFFFF00 = 0 := by
  unfold errmap
  split_ifs <;> decide

theorem errorsOfFlags_low (f : Word) : errorsOfFlags f &&& 0xFFFFFF00 = 0 := by
  unfold errorsOfFlags
  split_ifs <;> decide

/-! ### With no terminal source enabled -/

/-- What may differ between two states with nothing but error bits, answers of the environment, the trace and the response
between them. -/
structure Touched (s t : State) : Prop where
  h : ∃ e : Word, e &&& 0xFFFFFF00 = 0 ∧ t.h = s.h.orErrors e
  mem : t.mem = s.mem
  params : t.params = s.params
  requests : t.requests = s.requests
  dpath : t.dpath = s.dpath
  dma : t.dma = s.dma
  bus : t.bus = s.bus

theorem Touched.of_eq {s t : State} (h : t.h = s.h) (mem : t.mem = s.mem) (params : t.params = s.params)
    (requests : t.requests = s.requests) (dpath : t.dpath = s.dpath) (dma : t.dma = s.dma) (bus : t.bus = s.bus) :
    Touched s t :=
  ⟨⟨0, by decide, by rw [h]; simp [Handle.orErrors]⟩, mem, params, requests, dpath, dma, bus⟩

theorem Touched.refl (s : State) : Touched s s := .of_eq rfl rfl rfl rfl rfl rfl rfl

theorem Touched.trans {s t u : State} (a : Touched s t) (b : Touched t u) : Touched s u := by
  obtain ⟨⟨e, he, hs⟩, a1, a2, a3, a4, a5, a6⟩ := a
  obtain ⟨⟨f, hf, ht⟩, b1, b2, b3, b4, b5, b6⟩ := b
  refine ⟨⟨e ||| f, ?_, ?_⟩, b1.trans a1, b2.trans a2, b3.trans a3, b4.trans a4, b5.trans a5, b6.trans a6⟩
  · have : (e ||| f) &&& 0xFFFFFF00 = e &&& 0xFFFFFF00 ||| f &&& 0xFFFFFF00 := by
      ext i
      simp [Bool.and_or_distrib_right]
    rw [this, he, hf]
    rfl
  · rw [ht, hs]; simp [Handle.orErrors, BitVec.or_assoc]

/-- No terminal source is enabled: so it is outside a DMA request (R258). -/
def State.masked (s : State) : Prop := s.h.irqMask &&& terminalFlags = 0

theorem Touched.masked {s t : State} (a : Touched s t) (h : s.masked) : t.masked := by
  obtain ⟨⟨e, -, hs⟩, -⟩ := a
  simpa [State.masked, hs] using h

/-- The dispatcher always answers, and touches nothing but error bits. -/
theorem dispatch_spec (s : State) : ∃ fns t, dispatch s = .ok (fns, t) ∧ Touched s t ∧ t.response = s.response := by
  simp only [dispatch, bind_apply, get_apply, ite_run, pure_apply]
  split
  · exact ⟨_, _, rfl, .refl s, rfl⟩
  · split
    · exact ⟨_, _, rfl, .refl s, rfl⟩
    · simp only [rd52, via_noPoint, portCmd_apply]
      split
      · exact ⟨_, _, rfl, .of_eq rfl rfl rfl rfl rfl rfl rfl, rfl⟩
      · exact ⟨_, _, rfl, ⟨⟨_, errmap_low _, rfl⟩, rfl, rfl, rfl, rfl, rfl, rfl⟩, rfl⟩

theorem masked_sample {f m : Word} (h : m &&& terminalFlags = 0) {k : Word} (hk : k &&& terminalFlags = k) :
    flagSet (f &&& m) k = false := by
  have : f &&& m &&& k = 0 := by
    rw [← hk, BitVec.and_comm k, ← BitVec.and_assoc, BitVec.and_assoc f, h]
    simp
  simp [flagSet, this]

/-- The handler with no terminal source enabled. -/
theorem serveInterrupt_masked {s : State} (h : s.masked) :
    ∃ evs t, serveInterrupt s = .ok (evs, t) ∧ Touched s t ∧ t.response = s.response := by
  have he : ∀ f, flagSet (f &&& s.h.irqMask) errFlags = false := fun f => masked_sample h (by decide)
  have hd : ∀ f, flagSet (f &&& s.h.irqMask) flDataend = false := fun f => masked_sample h (by decide)
  simp only [serveInterrupt, bind_apply, get_apply, ite_run, pure_apply, portFlags_apply, portFlagClear_apply]
  split
  · exact ⟨_, s, rfl, .refl s, rfl⟩
  · split
    · exact ⟨_, _, rfl, .of_eq rfl rfl rfl rfl rfl rfl rfl, rfl⟩
    · simp only [transferPart, he, hd]
      split
      · generalize hu : dispatch _ = r
        obtain ⟨fns, t, hf, ht, hr⟩ := dispatch_spec { s with
          env := { s.env.afterSample s.bus.sdioOp with
            flags := flagsCleared (s.env.afterSample s.bus.sdioOp).flags
              (flagSample s.env.flags s.env.raised s.bus.sdioOp &&& s.h.irqMask &&& (terminalFlags ||| flSdioit)) }
          trace := .flagClear (flagSample s.env.flags s.env.raised s.bus.sdioOp &&& s.h.irqMask &&&
            (terminalFlags ||| flSdioit)) :: .flags :: s.trace }
        rw [← hu, hf]
        obtain ⟨h1, h2, h3, h4, h5, h6, h7⟩ := ht
        exact ⟨_, t, rfl, ⟨h1, h2, h3, h4, h5, h6, h7⟩, hr⟩
      · exact ⟨_, _, rfl, .of_eq rfl rfl rfl rfl rfl rfl rfl, rfl⟩

/-! ### The requests of callbacks -/

theorem secondRequest_spec (i : Instr) (s : State) :
    secondRequest i s = .error .reentrantRequest ∨ secondRequest i s = .ok ((), s.answered [stBusy]) := by
  unfold secondRequest
  split_ifs
  · exact .inr rfl
  · exact .inl rfl
  · exact .inr rfl

/-- While a foreground request is unanswered a callback's requests end the run or are answered `ST_BUSY` (R399). -/
theorem submitDuring_spec (rs : List Instr) (s : State) :
    submitDuring rs s = .error .reentrantRequest ∨ ∃ t, submitDuring rs s = .ok ((), t) ∧ Touched s t := by
  induction rs generalizing s with
  | nil => exact .inr ⟨s, rfl, .refl s⟩
  | cons i r ih =>
    simp only [submitDuring, bind_apply]
    rcases secondRequest_spec i s with e | e <;> rw [e]
    · exact .inl rfl
    · have h1 : Touched s (s.answered [stBusy]) := .of_eq rfl rfl rfl rfl rfl rfl rfl
      rcases ih (s.answered [stBusy]) with e | ⟨t, e, ht⟩
      · exact .inl e
      · exact .inr ⟨t, e, h1.trans ht⟩

theorem emit_during (k : EventKind) (s : State) :
    emit submitDuring k s = .error .reentrantRequest ∨ ∃ t, emit submitDuring k s = .ok ((), t) ∧ Touched s t := by
  simp only [emit, runCallback, bind_apply, upd_apply, get_apply, ite_run, pure_apply]
  split
  · exact .inr ⟨_, rfl, .of_eq rfl rfl rfl rfl rfl rfl rfl⟩
  · rcases submitDuring_spec s.env.submission { s with
        env := s.env.afterCallback, trace := .emit ⟨k, s.h.eventArg k, s.h.slot k⟩ :: s.trace } with e | ⟨t, e, ht⟩
    · exact .inl e
    · have h1 : Touched s { s with
          env := s.env.afterCallback, trace := .emit ⟨k, s.h.eventArg k, s.h.slot k⟩ :: s.trace } :=
        .of_eq rfl rfl rfl rfl rfl rfl rfl
      exact .inr ⟨t, e, h1.trans ht⟩

theorem emitAll_during (ks : List EventKind) (s : State) :
    emitAll submitDuring ks s = .error .reentrantRequest ∨
      ∃ t, emitAll submitDuring ks s = .ok ((), t) ∧ Touched s t := by
  induction ks generalizing s with
  | nil => exact .inr ⟨s, rfl, .refl s⟩
  | cons k ks ih =>
    simp only [emitAll, bind_apply]
    rcases emit_during k s with e | ⟨u, e, hu⟩ <;> rw [e]
    · exact .inl rfl
    · rcases ih u with e | ⟨t, e, ht⟩
      · exact .inl e
      · exact .inr ⟨t, e, hu.trans ht⟩

/-- With no request outstanding every callback's requests come to the port, one script entry for each event whose slot does
not hold `NOOP` (R297, R399). -/
theorem emitAll_toPort (ks : List EventKind) (s : State) :
    emitAll submitToPort ks s = .ok ((), { s with
      requests := s.requests ++
        (s.env.callbackScript.take (ks.countP fun k => s.h.slot k != 0)).flatten.flatMap encode
      env := { s.env with callbackScript := s.env.callbackScript.drop (ks.countP fun k => s.h.slot k != 0) }
      trace := (ks.map fun k => PortAction.emit ⟨k, s.h.eventArg k, s.h.slot k⟩).reverse ++ s.trace }) := by
  induction ks generalizing s with
  | nil => simp [emitAll]
  | cons k ks ih =>
    by_cases hk : s.h.slot k = 0
    · simp only [emitAll, emit, runCallback, bind_apply, upd_apply, get_apply, ite_run, pure_apply, State.logged,
        if_pos hk, ih]
      simp [hk]
    · simp only [emitAll, emit, runCallback, submitToPort, bind_apply, upd_apply, get_apply, ite_run, pure_apply,
        State.logged, if_neg hk, ih, Env.afterCallback, Env.submission]
      rw [List.countP_cons_of_pos (by simpa using hk)]
      cases s.env.callbackScript <;> simp

/-! ### Interruption points with no terminal source enabled -/

/-- Taking the interrupt inside a foreground request with no terminal source enabled. -/
theorem takeInterrupt_masked {s : State} (h : s.masked) :
    takeInterrupt submitDuring s = .error .reentrantRequest ∨
      ∃ t, takeInterrupt submitDuring s = .ok ((), t) ∧ Touched s t := by
  obtain ⟨evs, u, e, hu, -⟩ := serveInterrupt_masked h
  simp only [takeInterrupt, bind_apply, e]
  rcases emitAll_during evs u with e | ⟨t, e, ht⟩
  · exact .inl e
  · exact .inr ⟨t, e, hu.trans ht⟩

/-- What the data path raises at a point touches nothing but the flag word. -/
theorem touched_atPoint (s : State) (q : IrqPoint) (rest : List IrqPoint) : Touched s (s.atPoint q rest) :=
  .of_eq rfl rfl rfl rfl rfl rfl rfl

theorem irqRun_cons (q : IrqPoint) (rest : List IrqPoint) (s : State) :
    irqRun (q :: rest) s =
      let s1 := s.atPoint q rest
      if q.taken then
        if irqLine s1 then
          match takeInterrupt submitDuring s1 with
          | .ok (_, t) => irqRun rest t
          | .error f => .error f
        else irqRun rest s1
      else .ok ((), s1) := by
  simp only [irqRun, bind_apply, upd_apply, get_apply, ite_run, pure_apply]
  split
  · split
    · generalize takeInterrupt submitDuring _ = r
      cases r <;> rfl
    · rfl
  · rfl

/-- An interruption point with no terminal source enabled. -/
theorem irqPoint_masked {s : State} (h : s.masked) :
    irqPoint s = .error .reentrantRequest ∨ ∃ t, irqPoint s = .ok ((), t) ∧ Touched s t := by
  suffices ∀ q (s : State), s.masked →
      irqRun q s = .error .reentrantRequest ∨ ∃ t, irqRun q s = .ok ((), t) ∧ Touched s t from
    this s.env.irqSchedule s h
  intro q
  induction q with
  | nil => intro s _; exact .inr ⟨s, rfl, .refl s⟩
  | cons q rest ih =>
    intro s hs
    have t1 := touched_atPoint s q rest
    have on : ∀ u, Touched s u →
        irqRun rest u = .error .reentrantRequest ∨ ∃ t, irqRun rest u = .ok ((), t) ∧ Touched s t := by
      intro u hu
      rcases ih u (hu.masked hs) with e | ⟨t, e, ht⟩
      · exact .inl e
      · exact .inr ⟨t, e, hu.trans ht⟩
    rw [irqRun_cons]
    dsimp only
    split
    · split
      · rcases takeInterrupt_masked (t1.masked hs) with e | ⟨u, e, hu⟩ <;> rw [e]
        · exact .inl rfl
        · exact on u (t1.trans hu)
      · exact on _ t1
    · exact .inr ⟨_, rfl, t1⟩

/-- A port action after an interruption point with no terminal source enabled: what runs before it is `Touched`. -/
theorem via_masked {α : Type} {p : Act α} {s : State} (h : s.masked) {a : α} {u : State}
    (hr : via irqPoint p s = .ok (a, u)) : ∃ t, Touched s t ∧ t.masked ∧ p t = .ok (a, u) := by
  simp only [via, bind_apply] at hr
  rcases irqPoint_masked h with e | ⟨t, e, ht⟩
  · simp [e] at hr
  · rw [e] at hr
    exact ⟨t, ht, ht.masked h, hr⟩

end Sys2Proof.Machine
end

