-- ==== Sys2Proof/Laws/Dma.lean ====
section
/-! SUPPORT. What the operations on a DMA request can do: landing bytes, aborting, starting a phase, and the interrupt
taken while a request is in flight. The invariants of a sound state are kept by taking the interrupt and at every
interruption point. -/

-- one thread: the package compiles as one text
set_option Elab.async false

namespace Sys2Proof.Machine

/-! ### Masks -/

theorem mask_or_and (m k : Word) : (m ||| k) &&& k = k := by
  ext i
  simp only [BitVec.getElem_and, BitVec.getElem_or]
  cases m[i] <;> cases k[i] <;> rfl

theorem mask_andNot_and (m k : Word) : m &&& ~~~k &&& k = 0 := by
  ext i
  simp

/-- Enabling sources among the six leaves no other flag enabled (R331). -/
theorem mask_or_sources {m k : Word} (hm : m &&& ~~~allSources = 0) (hk : k &&& ~~~allSources = 0) :
    (m ||| k) &&& ~~~allSources = 0 := by
  have : (m ||| k) &&& ~~~allSources = m &&& ~~~allSources ||| k &&& ~~~allSources := by
    ext i
    simp only [BitVec.getElem_and, BitVec.getElem_or, BitVec.getElem_not, Bool.and_or_distrib_right]
  rw [this, hm, hk]
  rfl

theorem mask_andNot_sources {m : Word} (hm : m &&& ~~~allSources = 0) (k : Word) :
    m &&& ~~~k &&& ~~~allSources = 0 := by
  have : m &&& ~~~k &&& ~~~allSources = m &&& ~~~allSources &&& ~~~k := by
    ext i
    simp only [BitVec.getElem_and]
    ac_rfl
  rw [this, hm]
  simp

theorem mask_andNot_other {m k j : Word} (h : ~~~k &&& j = j) : m &&& ~~~k &&& j = m &&& j := by
  rw [BitVec.and_assoc, h]

theorem mask_or_other {m k j : Word} (h : k &&& j = 0) : (m ||| k) &&& j = m &&& j := by
  have : (m ||| k) &&& j = m &&& j ||| k &&& j := by
    ext i
    simp only [BitVec.getElem_and, BitVec.getElem_or, Bool.and_or_distrib_right]
  rw [this, h]
  simp

/-- Error bits accumulate within the bits 7:0 (R320). -/
theorem low_or {a b : Word} (ha : a &&& 0xFFFFFF00 = 0) (hb : b &&& 0xFFFFFF00 = 0) :
    (a ||| b) &&& 0xFFFFFF00 = 0 := by
  rw [mask_or_other hb, ha]

/-! ### Bytes the DMA engine writes -/

theorem Env.dmaBytes_spec (n : Nat) (e : Env) :
    (e.dmaBytes n).1.length = n ∧ ∃ ds k, (e.dmaBytes n).2 = { e with dmaScript := ds, drawn := k } := by
  induction n generalizing e with
  | zero => exact ⟨rfl, e.dmaScript, e.drawn, rfl⟩
  | succ n ih =>
    unfold Env.dmaBytes
    split
    · rename_i b r _
      obtain ⟨h1, ds, k, h2⟩ := ih { e with dmaScript := r }
      exact ⟨by simp [h1], ds, k, by simp [h2]⟩
    · obtain ⟨h1, ds, k, h2⟩ := ih { e with drawn := e.drawn + 1 }
      exact ⟨by simp [h1], ds, k, by simp [h2]⟩

theorem Env.freeBytes_spec (n : Nat) (e : Env) :
    (e.freeBytes n).1.length = n ∧ ∃ k, (e.freeBytes n).2 = { e with drawn := k } := by
  induction n generalizing e with
  | zero => exact ⟨rfl, e.drawn, rfl⟩
  | succ n ih =>
    obtain ⟨h1, k, h2⟩ := ih { e with drawn := e.drawn + 1 }
    exact ⟨by simp [Env.freeBytes, h1], k, by simp [Env.freeBytes, h2]⟩

/-- Landing bytes changes memory in the range alone, and nothing else but the environment's scripts; with no DMA read in
flight it changes nothing. -/
theorem landDma_spec (n : Nat) (s : State) :
    ∃ m ds k, landDma n s = .ok ((), { s with mem := m, env := { s.env with dmaScript := ds, drawn := k } }) ∧
      (s.mem.wf = true → m.wf = true) ∧
      (∀ x, (∀ j < n, x ≠ (s.h.pXferBuff + BitVec.ofNat 32 j).toNat) → m.read x = s.mem.read x) ∧
      ((ctxIsDma s.h.context && ctxIsRead s.h.context) = false → m = s.mem) := by
  unfold landDma
  by_cases h : (ctxIsDma s.h.context && ctxIsRead s.h.context) = true
  · obtain ⟨h1, ds, k, h2⟩ := Env.dmaBytes_spec n s.env
    refine ⟨s.mem.writeBytes s.h.pXferBuff (s.env.dmaBytes n).1, ds, k, ?_, fun w => Memory.wf_writeBytes w _ _, ?_, ?_⟩
    · simp only [upd_apply, if_pos h, h2]
    · intro x hx
      exact Memory.read_writeBytes_other _ _ _ _ (by rw [h1]; exact hx)
    · simp [h]
  · refine ⟨s.mem, s.env.dmaScript, s.env.drawn, ?_, id, fun _ _ => rfl, fun _ => rfl⟩
    simp only [upd_apply, if_neg h]

/-- Dropping a DMA request tears the engine down once; with no DMA context it does nothing. -/
theorem dropDma_spec {s : State} {r : Except Fault (Unit × State)} (h : dropDma noPoint s = r) :
    ∃ m ds k, r = .ok ((), { s with
        mem := m
        dma := if ctxIsDma s.h.context then none else s.dma
        env := { s.env with dmaScript := ds, drawn := k }
        trace := (if ctxIsDma s.h.context then [.dmaTeardown] else []) ++ s.trace }) ∧
      (s.mem.wf = true → m.wf = true) ∧
      (∀ x, (∀ j < s.h.unsettled, x ≠ (s.h.pXferBuff + BitVec.ofNat 32 j).toNat) → m.read x = s.mem.read x) ∧
      ((ctxIsDma s.h.context && ctxIsRead s.h.context) = false → m = s.mem) := by
  subst h
  by_cases h : ctxIsDma s.h.context = true
  · obtain ⟨m, ds, k, h1, h2, h3, h4⟩ := landDma_spec s.h.unsettled
      { s with dma := none, trace := .dmaTeardown :: s.trace }
    refine ⟨m, ds, k, ?_, h2, h3, h4⟩
    simp only [dropDma, h, if_true, via_noPoint, bind_apply, portDmaTeardown, upd_apply]
    exact h1
  · refine ⟨s.mem, s.env.dmaScript, s.env.drawn, ?_, id, fun _ _ => rfl, fun _ => rfl⟩
    simp [dropDma, h]

/-- At an interruption point that is not taken, dropping a DMA request is the same. -/
theorem dropDma_quiet {s : State} (h : s.env.irqSchedule = []) : dropDma irqPoint s = dropDma noPoint s := by
  simp only [dropDma, bind_apply, via_noPoint, via_quiet _ h]

/-! ### Phases -/

/-- `dma_abort(code)` (R254) inside the handler. -/
theorem dmaAbort_noPoint (code : Word) (s : State) :
    ∃ m ds k, dmaAbort noPoint code s = .ok ((), { s with
        h := { s.h with
          irqMask := s.h.irqMask &&& ~~~terminalFlags
          lastErrorCodes := s.h.lastErrorCodes ||| code
          remainingData := 0
          context := ctxNone
          globalState := .idle }
        mem := m
        dpath := { s.dpath with enabled := false }
        dma := none
        env := { s.env with dmaScript := ds, drawn := k, flags := flagsCleared s.env.flags staticFlags }
        trace := .flagClear staticFlags :: .dmaTeardown :: .dpathDisable :: .irqDisable terminalFlags :: s.trace }) ∧
      (s.mem.wf = true → m.wf = true) ∧
      (∀ x, (∀ j < s.h.unsettled, x ≠ (s.h.pXferBuff + BitVec.ofNat 32 j).toNat) → m.read x = s.mem.read x) ∧
      ((ctxIsDma s.h.context && ctxIsRead s.h.context) = false → m = s.mem) := by
  obtain ⟨m, ds, k, h1, h2, h3, h4⟩ := landDma_spec s.h.unsettled { s with
    h := s.h.withIrqMask (s.h.irqMask &&& ~~~terminalFlags)
    dpath := { s.dpath with enabled := false }
    dma := none
    trace := .dmaTeardown :: .dpathDisable :: .irqDisable terminalFlags :: s.trace }
  refine ⟨m, ds, k, ?_, h2, h3, h4⟩
  have hu : (s.h.withIrqMask (s.h.irqMask &&& ~~~terminalFlags)).unsettled = s.h.unsettled := rfl
  simp only [dmaAbort, bind_apply, via_noPoint, portIrqDisable_apply, portDpathDisable, portDmaTeardown, upd_apply,
    get_apply, hu, h1, portFlagClear_apply, updH_apply]
  rfl

/-- The state of the first four actions of a phase (R253): registers written, data path and engine programmed. -/
def State.phaseArmed (s : State) (rw : Bit) (reg : RegAddr) (buf rem : Word) : State :=
  let pl := phasePlan s.params s.h.contDesc.blockMode rem s.h.blockSize
  { s with
    h := s.h.withPhase reg buf rem pl.len
    dpath := ⟨s.h.dataTimeoutCycles, BitVec.ofNat 32 pl.len, BitVec.ofNat 32 pl.bsz, dirOf rw, pl.mode, true⟩
    dma := some ⟨buf, BitVec.ofNat 32 pl.len⟩
    env := s.env.afterCmd
    trace := .cmd cmdExtended (enc53 rw s.h.contDesc.fn (modeBit pl.mode) s.h.contDesc.opCode reg pl.count) ::
      .dpathEnable :: .dmaProgram buf (BitVec.ofNat 32 pl.len) ::
      .dpathConfig s.h.dataTimeoutCycles (BitVec.ofNat 32 pl.len) (BitVec.ofNat 32 pl.bsz) (dirOf rw) pl.mode ::
      s.trace }

/-- `start_phase` (R253) inside the handler: the phase armed, then the terminal sources enabled or the request aborted. -/
theorem startPhase_noPoint (rw : Bit) (reg : RegAddr) (buf rem : Word) (s : State) :
    startPhase noPoint rw reg buf rem s =
      if s.env.cmdAnswer.err = 0 then
        .ok (true, { s.phaseArmed rw reg buf rem with
          h := (s.phaseArmed rw reg buf rem).h.withIrqMask (s.h.irqMask ||| terminalFlags)
          trace := .irqEnable terminalFlags :: (s.phaseArmed rw reg buf rem).trace })
      else
        match dmaAbort noPoint (errmap s.env.cmdAnswer.err) (s.phaseArmed rw reg buf rem) with
        | .ok (_, t) => .ok (false, t)
        | .error f => .error f := by
  simp only [startPhase, bind_apply, get_apply, updH_apply, via_noPoint, portDpathConfig, portDmaProgram,
    portDpathEnable, upd_apply, portCmd_apply, ite_run]
  split
  · rfl
  · simp only [State.phaseArmed]
    generalize dmaAbort noPoint _ _ = r
    cases r <;> rfl

/-- A phase takes no more than is left (R223). -/
theorem phasePlan_len_le (p : Params) (bm : Bit) (rem bs : Word) : (phasePlan p bm rem bs).len ≤ rem.toNat := by
  unfold phasePlan
  split
  · rename_i h
    have hb : blocks rem bs * bs.toNat ≤ rem.toNat := by
      unfold blocks
      split
      · exact Nat.div_mul_le_self _ _
      · simp
    exact (Nat.mul_le_mul_right _ (min_le_left _ _)).trans hb
  · exact min_le_left _ _

/-- A phase that has been planned leaves as many bytes unsettled as there were to issue (R252). -/
theorem Handle.withPhase_unsettled (h : Handle) (reg : RegAddr) (buf rem : Word) (p : Params) (bm : Bit) (bs : Word) :
    (h.withPhase reg buf rem (phasePlan p bm rem bs).len).unsettled = rem.toNat := by
  have h1 := phasePlan_len_le p bm rem bs
  have h2 := rem.isLt
  simp only [Handle.unsettled, Handle.withPhase, BitVec.toNat_sub, BitVec.toNat_ofNat]
  omega

/-- What `start_phase` leaves inside the handler: the phase in flight, or the request aborted. -/
theorem startPhase_spec {rw : Bit} {reg : RegAddr} {buf rem : Word} {s : State} {r : Except Fault (Bool × State)}
    (h : startPhase noPoint rw reg buf rem s = r) :
    (∃ t, r = .ok (true, t) ∧ s.env.cmdAnswer.err = 0 ∧
      t.h = (s.phaseArmed rw reg buf rem).h.withIrqMask (s.h.irqMask ||| terminalFlags) ∧
      t.mem = s.mem ∧ t.params = s.params ∧ t.requests = s.requests ∧ t.bus = s.bus ∧
      t.response = s.response) ∨
    (∃ t, r = .ok (false, t) ∧ s.env.cmdAnswer.err ≠ 0 ∧
      t.h = { (s.phaseArmed rw reg buf rem).h with
        irqMask := s.h.irqMask &&& ~~~terminalFlags
        lastErrorCodes := s.h.lastErrorCodes ||| errmap s.env.cmdAnswer.err
        remainingData := 0
        context := ctxNone
        globalState := .idle } ∧
      (s.mem.wf = true → t.mem.wf = true) ∧ t.params = s.params ∧ t.requests = s.requests ∧ t.bus = s.bus ∧
      t.response = s.response ∧
      (∀ x, (∀ j < rem.toNat, x ≠ (buf + BitVec.ofNat 32 j).toNat) → t.mem.read x = s.mem.read x) ∧
      ((ctxIsDma s.h.context && ctxIsRead s.h.context) = false → t.mem = s.mem)) := by
  subst h
  rw [startPhase_noPoint]
  split
  · rename_i he
    exact .inl ⟨_, rfl, he, rfl, rfl, rfl, rfl, rfl, rfl⟩
  · rename_i he
    obtain ⟨m, ds, k, h1, h2, h3, h4⟩ := dmaAbort_noPoint (errmap s.env.cmdAnswer.err) (s.phaseArmed rw reg buf rem)
    rw [h1]
    refine .inr ⟨_, rfl, he, rfl, h2, rfl, rfl, rfl, rfl, fun x hx => h3 x ?_, h4⟩
    have hu : (s.phaseArmed rw reg buf rem).h.unsettled = rem.toNat := s.h.withPhase_unsettled ..
    rw [hu]
    exact hx

/-- The same at interruption points none of which is taken. -/
theorem startPhase_quiet {s : State} (hq : s.quiet) (rw : Bit) (reg : RegAddr) (buf rem : Word) :
    startPhase irqPoint rw reg buf rem s = startPhase noPoint rw reg buf rem s := by
  have h0 : s.env.irqSchedule = [] := hq
  have h1 : s.env.afterCmd.irqSchedule = [] := by simp [h0]
  simp only [startPhase, bind_apply, get_apply, updH_apply, via_noPoint, portDpathConfig, portDmaProgram,
    portDpathEnable, upd_apply, portCmd_apply, ite_run, via_quiet, h0, h1]
  split
  · rfl
  · obtain ⟨m, ds, k, hl, -⟩ := landDma_spec (s.h.withPhase reg buf rem
        (phasePlan s.params s.h.contDesc.blockMode rem s.h.blockSize).len).unsettled
      (State.mk ((s.h.withPhase reg buf rem
        (phasePlan s.params s.h.contDesc.blockMode rem s.h.blockSize).len).withIrqMask
          (s.h.irqMask &&& ~~~terminalFlags)) s.params s.mem s.requests s.response
        (.dmaTeardown :: .dpathDisable :: .irqDisable terminalFlags ::
          (s.phaseArmed rw reg buf rem).trace) ⟨s.h.dataTimeoutCycles, BitVec.ofNat 32
            (phasePlan s.params s.h.contDesc.blockMode rem s.h.blockSize).len, BitVec.ofNat 32
            (phasePlan s.params s.h.contDesc.blockMode rem s.h.blockSize).bsz, dirOf rw,
            (phasePlan s.params s.h.contDesc.blockMode rem s.h.blockSize).mode, false⟩ none s.bus s.env.afterCmd)
    simp only [State.phaseArmed] at hl
    have hu : ∀ m, ((s.h.withPhase reg buf rem
        (phasePlan s.params s.h.contDesc.blockMode rem s.h.blockSize).len).withIrqMask m).unsettled =
        (s.h.withPhase reg buf rem
        (phasePlan s.params s.h.contDesc.blockMode rem s.h.blockSize).len).unsettled := fun _ => rfl
    simp only [dmaAbort, bind_apply, via_quiet, via_noPoint, portIrqDisable_apply, portDpathDisable, portDmaTeardown,
      upd_apply, get_apply, hu, h1, hl, portFlagClear_apply, updH_apply, Handle.withPhase_irqMask]

end Sys2Proof.Machine
end

