-- ==== Sys2Proof/Laws/Invariant.lean ====
section
/-! SUPPORT. Taking the interrupt in a sound state: it never faults, leaves a sound state, and writes no field of the handle
but those of the transfer. So a sound state stays sound at every interruption point. -/

-- one thread: the package compiles as one text
set_option Elab.async false

namespace Sys2Proof.Machine

/-- A byte of the buffer of the DMA read in flight that is not known to have been moved: it lies in the phase in flight or
in a phase not issued. -/
def Handle.inFlight (h : Handle) (a : Nat) : Prop :=
  (ctxIsDma h.context && ctxIsRead h.context) = true ∧
    ∃ j < h.unsettled, a = (h.pXferBuff + BitVec.ofNat 32 j).toNat

/-- The handle with all that the handler may write put aside. -/
def Handle.still (h : Handle) : Handle :=
  { h with
    globalState := .reset, context := 0, lastErrorCodes := 0, remainingData := 0, nextRegAddr := 0, nextDataAddr := 0
    xferSize := 0, pXferBuff := 0, irqMask := 0 }

/-- What taking the interrupt in a sound state leaves. -/
structure Handled (s t : State) : Prop where
  inv : t.Inv
  global : t.h.globalState = s.h.globalState ∨ s.h.globalState = .active ∧ t.h.globalState = .idle
  context : t.h.context = s.h.context ∨ t.h.context = 0
  still : t.h.still = s.h.still
  errors : t.h.lastErrorCodes &&& s.h.lastErrorCodes = s.h.lastErrorCodes
  params : t.params = s.params
  requests : t.requests = s.requests
  bus : t.bus = s.bus
  mem : (ctxIsDma s.h.context && ctxIsRead s.h.context) = false → t.mem = s.mem
  stores : ∀ a, t.mem.read a ≠ s.mem.read a → s.h.inFlight a
  shrinks : ∀ a, t.h.inFlight a → s.h.inFlight a

section
variable {s t u : State}

theorem Handled.instanceId (a : Handled s t) : t.h.instanceId = s.h.instanceId := (congrArg Handle.instanceId a.still :)
theorem Handled.identState (a : Handled s t) : t.h.identState = s.h.identState := (congrArg Handle.identState a.still :)
theorem Handled.blockSize (a : Handled s t) : t.h.blockSize = s.h.blockSize := (congrArg Handle.blockSize a.still :)
theorem Handled.dataTimeoutCycles (a : Handled s t) : t.h.dataTimeoutCycles = s.h.dataTimeoutCycles :=
  (congrArg Handle.dataTimeoutCycles a.still :)
theorem Handled.transceiverMode (a : Handled s t) : t.h.transceiverMode = s.h.transceiverMode :=
  (congrArg Handle.transceiverMode a.still :)
theorem Handled.contDesc (a : Handled s t) : t.h.contDesc = s.h.contDesc := (congrArg Handle.contDesc a.still :)
theorem Handled.fnIrqCount (a : Handled s t) : t.h.fnIrqCount = s.h.fnIrqCount := (congrArg Handle.fnIrqCount a.still :)
theorem Handled.fnIrqMask (a : Handled s t) : t.h.fnIrqMask = s.h.fnIrqMask := (congrArg Handle.fnIrqMask a.still :)
theorem Handled.cfg (a : Handled s t) : t.h.cfg = s.h.cfg := (congrArg Handle.cfg a.still :)
theorem Handled.cbTransceiver (a : Handled s t) : t.h.cbTransceiver = s.h.cbTransceiver :=
  (congrArg Handle.cbTransceiver a.still :)
theorem Handled.fnCb (a : Handled s t) : t.h.fnCb = s.h.fnCb := (congrArg Handle.fnCb a.still :)

/-- Error bits only accumulate. -/
theorem or_keeps (e f : Word) : (e ||| f) &&& e = e := by
  ext i
  simp only [BitVec.getElem_and, BitVec.getElem_or]
  cases e[i] <;> cases f[i] <;> rfl

theorem keeps_trans {a b c : Word} (h : b &&& a = a) (k : c &&& b = b) : c &&& a = a := by
  rw [← h, ← BitVec.and_assoc, k]

theorem Handled.trans (a : Handled s t) (b : Handled t u) : Handled s u where
  inv := b.inv
  global := by
    rcases a.global with g | ⟨g1, g2⟩ <;> rcases b.global with k | ⟨k1, k2⟩ <;> simp_all
  context := by
    rcases a.context with g | g <;> rcases b.context with k | k <;> simp_all
  still := b.still.trans a.still
  errors := keeps_trans a.errors b.errors
  params := b.params.trans a.params
  requests := b.requests.trans a.requests
  bus := b.bus.trans a.bus
  mem := fun h => by
    refine (b.mem ?_).trans (a.mem h)
    rcases a.context with g | g
    · rw [g]; exact h
    · rw [g]; rfl
  stores := fun x hx => by
    by_cases h : u.mem.read x = t.mem.read x
    · exact a.stores x (h ▸ hx)
    · exact a.shrinks x (b.stores x h)
  shrinks := fun x hx => a.shrinks x (b.shrinks x hx)

end

/-- The handle at the end of a DMA request is sound. -/
theorem Handle.Inv.ended {h h' : Handle} (i : h.Inv) (ha : h.globalState = .active) (hg : h'.globalState = .idle)
    (hc : h'.context = 0) (hr : h'.remainingData = 0) (hm : h'.irqMask = h.irqMask &&& ~~~terminalFlags)
    (hl : h'.lastErrorCodes &&& 0xFFFFFF00 = 0) (hn : h'.fnIrqCount = h.fnIrqCount)
    (hk : h'.fnIrqMask = h.fnIrqMask) (hi : h'.identState = h.identState) : h'.Inv where
  context_legal := by simp [hc, legalContexts, ctxNone]
  context_active := by simp [hc]
  active_dma := by simp [hg]
  remaining_dma := by simp [hr]
  count_mask := by rw [hn, hk]; exact i.count_mask
  mask_bit_zero := by rw [hk]; exact i.mask_bit_zero
  next_data := by simp [hc, ctxIsDma]
  dma_terminal := by simp [hc, ctxIsDma]
  terminal_dma := fun _ => by rw [hm]; exact mask_andNot_and _ _
  mask_sources := by rw [hm]; exact mask_andNot_sources i.mask_sources _
  line_count := by
    rw [hm, hn, mask_andNot_other (by decide)]
    exact i.line_count
  ident_selected := fun _ => by rw [hi]; exact i.ident_selected (.inr ha)
  ident_off := fun h => absurd (.inl hg) h
  removed_default := by simp [hg]
  errors_low := hl

/-- The handle at the start of the next phase is sound. -/
theorem Handle.Inv.continued {h h' : Handle} (i : h.Inv) (ha : h.globalState = .active) (hg : h'.globalState = .active)
    (hc : h'.context = h.context) (hd : h'.nextDataAddr = h'.pXferBuff + h'.xferSize)
    (hm : h'.irqMask = h.irqMask &&& ~~~terminalFlags ||| terminalFlags)
    (hl : h'.lastErrorCodes = h.lastErrorCodes) (hn : h'.fnIrqCount = h.fnIrqCount)
    (hk : h'.fnIrqMask = h.fnIrqMask) (hi : h'.identState = h.identState) : h'.Inv where
  context_legal := by rw [hc]; exact i.context_legal
  context_active := fun _ => hg
  active_dma := fun _ => by rw [hc]; exact i.active_dma ha
  remaining_dma := fun _ => by rw [hc]; exact i.active_dma ha
  count_mask := by rw [hn, hk]; exact i.count_mask
  mask_bit_zero := by rw [hk]; exact i.mask_bit_zero
  next_data := fun _ => hd
  dma_terminal := fun _ => by rw [hm]; exact mask_or_and _ _
  terminal_dma := fun h => by rw [hc, i.active_dma ha] at h; cases h
  mask_sources := by rw [hm]; exact mask_or_sources (mask_andNot_sources i.mask_sources _) (by decide)
  line_count := by
    rw [hm, hn, mask_or_other (by decide), mask_andNot_other (by decide)]
    exact i.line_count
  ident_selected := fun _ => by rw [hi]; exact i.ident_selected (.inr ha)
  ident_off := fun h => absurd (.inr hg) h
  removed_default := by simp [hg]
  errors_low := by rw [hl]; exact i.errors_low

theorem Handle.Inv.orErrors {h : Handle} (i : h.Inv) {e : Word} (he : e &&& 0xFFFFFF00 = 0) : (h.orErrors e).Inv where
  context_legal := i.context_legal
  context_active := i.context_active
  active_dma := i.active_dma
  remaining_dma := i.remaining_dma
  count_mask := i.count_mask
  mask_bit_zero := i.mask_bit_zero
  next_data := i.next_data
  dma_terminal := i.dma_terminal
  terminal_dma := i.terminal_dma
  mask_sources := i.mask_sources
  line_count := i.line_count
  ident_selected := i.ident_selected
  ident_off := i.ident_off
  removed_default := i.removed_default
  errors_low := low_or i.errors_low he

theorem Touched.inv {s t : State} (a : Touched s t) (i : s.Inv) : t.Inv := by
  obtain ⟨⟨e, he, hs⟩, hm, -⟩ := a
  exact ⟨by rw [hs]; exact i.handle.orErrors he, by rw [hm]; exact i.memory⟩

theorem Touched.handled {s t : State} (a : Touched s t) (i : s.Inv) : Handled s t := by
  have it := a.inv i
  obtain ⟨⟨e, he, hs⟩, hm, hp, hq, -, -, hb⟩ := a
  refine ⟨it, .inl ?_, .inl ?_, ?_, ?_, hp, hq, hb, fun _ => hm, fun x hx => absurd ?_ hx, fun x hx => ?_⟩
  · rw [hs, Handle.orErrors_globalState]
  · rw [hs, Handle.orErrors_context]
  · rw [hs]; rfl
  · rw [hs]; exact or_keeps _ _
  · rw [hm]
  · rw [hs] at hx; exact hx

theorem State.Inv.masked {s : State} (i : s.Inv) (h : s.h.globalState ≠ .active) : s.masked := by
  refine i.handle.terminal_dma ?_
  by_cases hc : s.h.context = 0
  · simp [hc, ctxIsDma]
  · exact absurd (i.handle.context_active hc) h

/-- A byte that has changed is one of those that may have. -/
theorem inFlight_of_changed {h : Handle} {n : Nat} {m m' : Memory} (hc : (ctxIsDma h.context && ctxIsRead h.context) = true)
    (hn : n ≤ h.unsettled)
    (hf : ∀ x, (∀ j < n, x ≠ (h.pXferBuff + BitVec.ofNat 32 j).toNat) → m'.read x = m.read x) {a : Nat}
    (ha : m'.read a ≠ m.read a) : h.inFlight a := by
  refine ⟨hc, ?_⟩
  by_contra hno
  exact ha (hf a fun j hj e => hno ⟨j, hj.trans_le hn, e⟩)

/-- A byte of the phases not issued is in flight (R252). -/
theorem Handle.Inv.inFlight_next {h : Handle} (i : h.Inv) (hc : (ctxIsDma h.context && ctxIsRead h.context) = true) {a : Nat}
    (ha : ∃ j < h.remainingData.toNat, a = (h.nextDataAddr + BitVec.ofNat 32 j).toNat) : h.inFlight a := by
  obtain ⟨j, hj, rfl⟩ := ha
  refine ⟨hc, h.xferSize.toNat + j, by simp only [Handle.unsettled]; omega, ?_⟩
  rw [i.next_data (by simp_all), BitVec.add_assoc, BitVec.ofNat_add, BitVec.ofNat_toNat, BitVec.setWidth_eq]

/-- The end of a DMA request, whichever its cause: a sound state, and stores in the buffer in flight alone. -/
theorem State.Inv.endsHandled {s t : State} (i : s.Inv) (ha : s.h.globalState = .active) (c : Word)
    (hc : c &&& 0xFFFFFF00 = 0)
    (hh : ∃ h : Handle, h.still = s.h.still ∧ t.h = { h with
      globalState := .idle, context := 0, remainingData := 0, lastErrorCodes := s.h.lastErrorCodes ||| c
      irqMask := s.h.irqMask &&& ~~~terminalFlags })
    (hw : s.mem.wf = true → t.mem.wf = true) (hp : t.params = s.params) (hq : t.requests = s.requests)
    (hb : t.bus = s.bus) (hm : (ctxIsDma s.h.context && ctxIsRead s.h.context) = false → t.mem = s.mem)
    (hs : ∀ a, t.mem.read a ≠ s.mem.read a → s.h.inFlight a) : Handled s t := by
  obtain ⟨h, hst, hh⟩ := hh
  have k : t.h.still = s.h.still := by rw [hh]; exact hst
  refine ⟨⟨i.handle.ended ha ?_ ?_ ?_ ?_ ?_ (congrArg Handle.fnIrqCount k :) (congrArg Handle.fnIrqMask k :)
    (congrArg Handle.identState k :), hw i.memory⟩, .inr ⟨ha, ?_⟩, .inr ?_, k, ?_, hp, hq, hb, hm, hs, fun a h => ?_⟩
  all_goals first | (rw [hh]; done) | skip
  · rw [hh]; exact low_or i.handle.errors_low hc
  · rw [hh]; exact or_keeps _ _
  · rw [hh] at h; simp [Handle.inFlight, ctxIsDma] at h

/-- The transfer part of the handler while a DMA request is in flight: it ends the request, or starts its next phase, or
does nothing; it never faults. -/
theorem transferPart_active {s : State} (i : s.Inv) (ha : s.h.globalState = .active) (f : Word) :
    ∃ ev t, transferPart f s = .ok (ev, t) ∧ Handled s t ∧ t.response = s.response := by
  have hd : ctxIsDma s.h.context = true := i.handle.active_dma ha
  simp only [transferPart, bind_apply, ite_run, pure_apply]
  split
  · -- an error flag
    simp only [onDataError, bind_apply, portIrqDisable_apply, portDpathDisable, upd_apply]
    generalize hr : dropDma noPoint _ = r
    obtain ⟨m, ds, k, rfl, h2, h3, h4⟩ := dropDma_spec hr
    refine ⟨_, _, rfl, i.endsHandled ha (errorsOfFlags f) (errorsOfFlags_low f) ⟨s.h, rfl, rfl⟩ h2 rfl rfl rfl h4
      fun a hch => ?_, rfl⟩
    by_cases hc : (ctxIsDma s.h.context && ctxIsRead s.h.context) = true
    · exact inFlight_of_changed hc le_rfl h3 hch
    · exact absurd (congrArg (Memory.read · a) (h4 (by simpa using hc))) hch
  · split
    · -- data-complete
      simp only [onDataComplete, bind_apply, get_apply, ite_run, hd, if_true, portIrqDisable_apply, portDpathDisable,
        portDmaTeardown, upd_apply]
      obtain ⟨m, ds, k, h1, h2, h3, h4⟩ := landDma_spec s.h.xferSize.toNat { s with
        h := s.h.withIrqMask (s.h.irqMask &&& ~~~terminalFlags)
        dpath := { s.dpath with enabled := false }
        dma := none
        trace := .dmaTeardown :: .dpathDisable :: .irqDisable terminalFlags :: s.trace }
      have landed : ∀ a, m.read a ≠ s.mem.read a → s.h.inFlight a := by
        intro a hch
        by_cases hc : (ctxIsDma s.h.context && ctxIsRead s.h.context) = true
        · exact inFlight_of_changed hc (Nat.le_add_right _ _) h3 hch
        · exact absurd (congrArg (Memory.read · a) (h4 (by simpa using hc))) hch
      rw [h1]
      simp only [updH_apply]
      split
      · rename_i hr
        refine ⟨_, _, rfl, i.endsHandled ha 0 rfl ⟨s.h, rfl, ?_⟩ h2 rfl rfl rfl h4 landed, rfl⟩
        simp [Handle.withGlobal, Handle.withContext, Handle.withIrqMask, hr, ctxNone]
      · generalize hs : startPhase noPoint _ _ _ _ _ = r
        have hm := h2 i.memory
        rcases startPhase_spec hs with ⟨t, rfl, -, e, e1, e2, e3, e4, e5⟩ | ⟨t, rfl, -, e, e1, e2, e3, e4, e5, e6, e7⟩
        · refine ⟨_, t, rfl, ⟨⟨?_, by rw [e1]; exact hm⟩, .inl (by rw [e]; exact rfl), .inl (by rw [e]; exact rfl),
            by rw [e]; exact rfl, ?_, e2, e3, e4, fun h => e1.trans (h4 h), fun a hch => landed a (by rw [e1] at hch; exact hch),
            fun a hfl => ?_⟩, e5⟩
          · rw [e]
            exact i.handle.continued ha ha rfl rfl rfl rfl rfl rfl rfl
          · rw [e]
            exact BitVec.and_self
          · rw [e] at hfl
            obtain ⟨hc, j, hj, rfl⟩ := hfl
            have hu := s.h.withPhase_unsettled s.h.nextRegAddr s.h.nextDataAddr s.h.remainingData s.params
              s.h.contDesc.blockMode s.h.blockSize
            exact i.handle.inFlight_next hc ⟨j, lt_of_lt_of_eq hj hu, rfl⟩
        · have hi : s.h.irqMask &&& ~~~terminalFlags &&& ~~~terminalFlags = s.h.irqMask &&& ~~~terminalFlags := by
            rw [BitVec.and_assoc, BitVec.and_self]
          refine ⟨_, t, rfl, i.endsHandled ha
            (errmap (Env.cmdAnswer { s.env with dmaScript := ds, drawn := k }).err) (errmap_low _) ⟨Handle.withPhase s.h s.h.nextRegAddr s.h.nextDataAddr
            s.h.remainingData (phasePlan s.params s.h.contDesc.blockMode s.h.remainingData s.h.blockSize).len, rfl, ?_⟩
            (fun w => e1 (h2 w)) e2 e3 e4 (fun h => (e7 h).trans (h4 h)) fun a hch => ?_, e5⟩
          · rw [e]
            simp only [Handle.withIrqMask, hi]
            rfl
          · by_cases hc : (ctxIsDma s.h.context && ctxIsRead s.h.context) = true
            · by_cases hl : m.read a = s.mem.read a
              · refine i.handle.inFlight_next hc ?_
                by_contra hno
                exact hch ((e6 a fun j hj ej => hno ⟨j, hj, ej⟩).trans hl)
              · exact landed a hl
            · have hc' : (ctxIsDma s.h.context && ctxIsRead s.h.context) = false := by simpa using hc
              exact absurd (congrArg (Memory.read · a) ((e7 hc').trans (h4 hc'))) hch
    · exact ⟨_, _, rfl, (Touched.refl s).handled i, rfl⟩

/-- The handler in a sound state never faults and leaves a sound state. -/
theorem serveInterrupt_inv {s : State} (i : s.Inv) :
    ∃ evs t, serveInterrupt s = .ok (evs, t) ∧ Handled s t ∧ t.response = s.response := by
  by_cases ha : s.h.globalState = .active
  · simp only [serveInterrupt, bind_apply, get_apply, ite_run, pure_apply, portFlags_apply, portFlagClear_apply]
    rw [if_neg (by simp [ha])]
    split
    · exact ⟨_, _, rfl, Touched.handled (.of_eq rfl rfl rfl rfl rfl rfl rfl) i, rfl⟩
    · generalize hf : flagSample s.env.flags s.env.raised s.bus.sdioOp &&& s.h.irqMask = f
      set u : State := { s with
        env := { s.env.afterSample s.bus.sdioOp with
          flags := flagsCleared (s.env.afterSample s.bus.sdioOp).flags (f &&& (terminalFlags ||| flSdioit)) }
        trace := .flagClear (f &&& (terminalFlags ||| flSdioit)) :: .flags :: s.trace } with hu
      have hsu : Touched s u := .of_eq rfl rfl rfl rfl rfl rfl rfl
      have fin : ∀ v, Touched u v → ∃ ev t, transferPart f v = .ok (ev, t) ∧ Handled s t ∧ t.response = v.response := by
        intro v huv
        have hsv := (hsu.trans huv).handled i
        have hav : v.h.globalState = .active := by
          obtain ⟨⟨e, -, he⟩, -⟩ := hsu.trans huv
          rw [he]
          exact ha
        obtain ⟨ev, t, ht, hvt, hrt⟩ := transferPart_active hsv.inv hav f
        exact ⟨ev, t, ht, hsv.trans hvt, hrt⟩
      split
      · obtain ⟨fns, v, hv, huv, hrv⟩ := dispatch_spec u
        obtain ⟨ev, t, ht, hst, hrt⟩ := fin v huv
        simp only [hv, ht]
        exact ⟨_, _, rfl, hst, hrt.trans hrv⟩
      · obtain ⟨ev, t, ht, hst, hrt⟩ := fin u (.refl u)
        simp only [ht]
        exact ⟨_, _, rfl, hst, hrt⟩
  · obtain ⟨evs, t, h1, h2, h3⟩ := serveInterrupt_masked (i.masked ha)
    exact ⟨evs, t, h1, h2.handled i, h3⟩

/-- Taking the interrupt inside a foreground request in a sound state. -/
theorem takeInterrupt_inv {s : State} (i : s.Inv) :
    takeInterrupt submitDuring s = .error .reentrantRequest ∨
      ∃ t, takeInterrupt submitDuring s = .ok ((), t) ∧ Handled s t := by
  obtain ⟨evs, u, e, hu, -⟩ := serveInterrupt_inv i
  simp only [takeInterrupt, bind_apply, e]
  rcases emitAll_during evs u with e | ⟨t, e, ht⟩
  · exact .inl e
  · exact .inr ⟨t, e, hu.trans (ht.handled hu.inv)⟩

/-- Taking the interrupt from the vector in a sound state never faults; what the callbacks submit stands before the words
that wait at the port. -/
theorem vectorEntry_inv {s : State} (i : s.Inv) :
    ∃ t ws, vectorEntry s = .next t ∧ t.requests = ws ++ s.requests ∧ Handled s { t with requests := s.requests } ∧
      t.response = s.response := by
  have i0 : State.Inv { s with requests := [] } := ⟨i.handle, i.memory⟩
  obtain ⟨evs, u, e, hu, hr⟩ := serveInterrupt_inv i0
  simp only [vectorEntry, takeInterrupt, bind_apply, e, emitAll_toPort]
  refine ⟨_, _, rfl, by rw [hu.requests], ?_, hr⟩
  exact ⟨⟨hu.inv.handle, hu.inv.memory⟩, hu.global, hu.context, hu.still, hu.errors, hu.params, rfl, hu.bus, hu.mem, hu.stores,
    hu.shrinks⟩

/-- An interruption point in a sound state. -/
theorem irqPoint_inv {s : State} (i : s.Inv) :
    irqPoint s = .error .reentrantRequest ∨ ∃ t, irqPoint s = .ok ((), t) ∧ Handled s t := by
  suffices ∀ q (s : State), s.Inv →
      irqRun q s = .error .reentrantRequest ∨ ∃ t, irqRun q s = .ok ((), t) ∧ Handled s t from
    this s.env.irqSchedule s i
  intro q
  induction q with
  | nil => intro s i; exact .inr ⟨s, rfl, (Touched.refl s).handled i⟩
  | cons q rest ih =>
    intro s i
    have t1 := (touched_atPoint s q rest).handled i
    have on : ∀ u, Handled s u →
        irqRun rest u = .error .reentrantRequest ∨ ∃ t, irqRun rest u = .ok ((), t) ∧ Handled s t := by
      intro u hu
      rcases ih u hu.inv with e | ⟨t, e, ht⟩
      · exact .inl e
      · exact .inr ⟨t, e, hu.trans ht⟩
    rw [irqRun_cons]
    dsimp only
    split
    · split
      · rcases takeInterrupt_inv t1.inv with e | ⟨u, e, hu⟩ <;> rw [e]
        · exact .inl rfl
        · exact on u (t1.trans hu)
      · exact on _ t1
    · exact .inr ⟨_, rfl, t1⟩

/-- A port action after an interruption point in a sound state. -/
theorem via_inv {α : Type} {p : Act α} {s : State} (i : s.Inv) {a : α} {u : State}
    (hr : via irqPoint p s = .ok (a, u)) : ∃ t, Handled s t ∧ p t = .ok (a, u) := by
  simp only [via, bind_apply] at hr
  rcases irqPoint_inv i with e | ⟨t, e, ht⟩
  · simp [e] at hr
  · rw [e] at hr
    exact ⟨t, ht, hr⟩

end Sys2Proof.Machine
end

