-- ==== Sys2Proof/Laws/Request.lean ====
section
/-! SUPPORT. What a request can do before its own steps (R327): it is refused, answered `ST_BUSY`, or runs its steps on the
state with the error mask cleared where it clears it. -/

-- one thread: the package compiles as one text
set_option Elab.async false

namespace Sys2Proof.Machine

section
variable {i : Instr} {body : Act Unit} {s : State}

theorem request_refused {r : Refusal} (h : refusalOf i = some r) : request i body s = .refused r := by
  simp [request, h]

theorem request_busy (h : refusalOf i = none) (ha : accepts i s = false) :
    request i body s = .next (s.answered [stBusy]) := by
  simp [request, h, ha, finish, State.answered]

theorem request_runs (h : refusalOf i = none) (ha : accepts i s = true) :
    request i body s = finish body { s with
      h := { s.h with lastErrorCodes := if clearsErrors i s then 0 else s.h.lastErrorCodes } } := by
  simp only [request, h, ha, if_true, finish]
  cases clearsErrors i s <;> rfl

/-- A request that answers has been refused nothing: it ran its steps or was answered `ST_BUSY`. -/
theorem request_next {t : State} (h : request i body s = .next t) :
    refusalOf i = none ∧
      (accepts i s = false ∧ t = s.answered [stBusy] ∨
        accepts i s = true ∧ body { s with
          h := { s.h with lastErrorCodes := if clearsErrors i s then 0 else s.h.lastErrorCodes } } = .ok ((), t)) := by
  cases hr : refusalOf i with
  | some r => rw [request_refused hr] at h; cases h
  | none =>
    refine ⟨rfl, ?_⟩
    cases ha : accepts i s with
    | false => rw [request_busy hr ha] at h; cases h; exact .inl ⟨rfl, rfl⟩
    | true =>
      rw [request_runs hr ha, finish] at h
      refine .inr ⟨rfl, ?_⟩
      split at h
      · cases h; assumption
      · cases h

theorem finish_ok {m : Act Unit} {t : State} (h : m s = .ok ((), t)) : finish m s = .next t := by simp [finish, h]

theorem finish_error {m : Act Unit} {f : Fault} (h : m s = .error f) : finish m s = .fault f := by simp [finish, h]

theorem finish_next {m : Act Unit} {t : State} (h : finish m s = .next t) : m s = .ok ((), t) := by
  unfold finish at h
  split at h
  · cases h; assumption
  · cases h

end

end Sys2Proof.Machine
end

