-- ==== Sys2Proof/Laws/Config.lean ====
section
/-! SUPPORT. What the clock and divider operations of the lifecycle can answer. -/

-- one thread: the package compiles as one text
set_option Elab.async false

namespace Sys2Proof.Machine

/-- The default divider: `div_of(k, 400000)` where it fits `DIV_BITS`, and nothing but the count of free values drawn
changes (R43, R165). -/
theorem defaultDiv_spec {k : Word} {s : State} {r : Except Fault (Word × State)} (h : defaultDiv k s = r) :
    ∃ d n, r = .ok (d, { s with env := { s.env with drawn := n } }) ∧
      (k.toNat / 800000 < 2 ^ s.params.divBits → d = BitVec.ofNat 32 (k.toNat / 800000) ∧ n = s.env.drawn) := by
  subst h
  have e : 2 * Config.defaultClockHz.toNat = 800000 := rfl
  refine ⟨_, _, rfl, fun h => ?_⟩
  simp [divOf, e, divFits, h]

/-- The free clock that `DEINIT` takes changes nothing but the count of free values drawn. -/
theorem unreadClock_apply (s : State) : unreadClock s =
    .ok (Config.freeClock s.env.drawn, { s with env := { s.env with drawn := s.env.drawn + 1 } }) := rfl

/-- The power-up wait is a number of milliseconds: `ceil(cycles * 1000 / f)` at a bus clock of `f` Hz that is not 0 (R132). -/
theorem settleWait_spec {k : Word} {s : State} {r : Except Fault (Nat × State)} (h : settleWait k s = r) :
    ∃ ms n, r = .ok (ms, { s with env := { s.env with drawn := n } }) ∧
      ∀ f, f = freqOf k (BitVec.ofNat 32 (divOf k Config.defaultClockHz)) → f ≠ 0 →
        ms = settleMs s.params.powerupSettleCycles f ∧ n = s.env.drawn := by
  subst h
  refine ⟨_, _, rfl, fun f hf h0 => ?_⟩
  subst hf
  simp [h0]

/-! ### Environment answers that do not depend on the flags -/

@[simp] theorem Env.clock_flags (e : Env) (f : Word) : Env.clock { e with flags := f } = e.clock := rfl

@[simp] theorem Env.cmdAnswer_flags (e : Env) (f : Word) : Env.cmdAnswer { e with flags := f } = e.cmdAnswer := rfl

theorem Env.afterClock_withFlags (e : Env) (f : Word) :
    Env.afterClock { e with flags := f } = { e.afterClock with flags := f } := by
  unfold Env.afterClock
  dsimp only
  split <;> rfl

theorem Env.afterCmd_withFlags (e : Env) (f : Word) :
    Env.afterCmd { e with flags := f } = { e.afterCmd with flags := f } := by
  unfold Env.afterCmd
  dsimp only
  split <;> rfl

end Sys2Proof.Machine
end

