-- ==== Sys2Proof/Laws/Access.lean ====
section
/-! SUPPORT. Commands and card register accesses at interruption points none of which is taken: one lemma per shared
operation. -/

-- one thread: the package compiles as one text
set_option Elab.async false

namespace Sys2Proof.Machine

/-! ### A scripted answer -/

theorem Env.cmdAnswer_cons {e : Env} {a : CmdAnswer} {as : List CmdAnswer} (h : e.cmdScript = a :: as) :
    e.cmdAnswer = a := by simp [Env.cmdAnswer, h]

theorem Env.afterCmd_cons {e : Env} {a : CmdAnswer} {as : List CmdAnswer} (h : e.cmdScript = a :: as) :
    e.afterCmd = { e with cmdScript := as } := by simp [Env.afterCmd, h]

theorem Env.clock_cons {e : Env} {k : Word} {ks : List Word} (h : e.clockScript = k :: ks) : e.clock = k := by
  simp [Env.clock, h]

theorem Env.afterClock_cons {e : Env} {k : Word} {ks : List Word} (h : e.clockScript = k :: ks) :
    e.afterClock = { e with clockScript := ks } := by simp [Env.afterClock, h]

theorem Env.raised_cons {e : Env} {f : Word} {fs : List Word} (h : e.flagScript = f :: fs) : e.raised = f := by
  simp [Env.raised, h]

theorem Env.afterSample_cons {e : Env} {f : Word} {fs : List Word} (h : e.flagScript = f :: fs) (b : Bool) :
    e.afterSample b = { e with flagScript := fs, flags := flagSample e.flags f b } := by
  simp [Env.afterSample, Env.raised, h]

theorem Env.afterTick_cons {e : Env} {d : BitVec 31} {ds : List (BitVec 31)} (h : e.tickScript = d :: ds) :
    e.afterTick = { e with tickScript := ds, tick := e.nextTick, tickOwed := 0 } := by
  simp [Env.afterTick, h]

/-- With no busy-wait owed, a scripted tick reading is as much later as the script says. -/
theorem Env.nextTick_cons {e : Env} {d : BitVec 31} {ds : List (BitVec 31)} (h : e.tickScript = d :: ds)
    (ho : e.tickOwed = 0) : e.nextTick = e.tick + BitVec.ofNat 32 d.toNat := by
  simp [Env.nextTick, Env.tickStep, h, ho]

theorem Env.fifoWord_cons {e : Env} {w : Word} {ws : List Word} (h : e.fifoRx = w :: ws) : e.fifoWord = w := by
  simp [Env.fifoWord, h]

theorem Env.afterFifoRead_cons {e : Env} {w : Word} {ws : List Word} (h : e.fifoRx = w :: ws) :
    e.afterFifoRead = { e with fifoRx := ws } := by simp [Env.afterFifoRead, h]

/-- Scripted bytes are the bytes the DMA engine writes (R80). -/
theorem Env.dmaBytes_append {n : Nat} {bs : List Byte} (hn : bs.length = n) {e : Env} {rest : List Byte}
    (h : e.dmaScript = bs ++ rest) : e.dmaBytes n = (bs, { e with dmaScript := rest }) := by
  induction bs generalizing n e with
  | nil => subst hn; simp at h; simp [Env.dmaBytes, ← h]
  | cons b bs ih =>
    obtain ⟨n, rfl⟩ : ∃ m, n = m + 1 := ⟨bs.length, by simpa using hn.symm⟩
    rw [List.cons_append] at h
    simp [Env.dmaBytes, h, ih (Nat.succ.inj hn) (e := { e with dmaScript := bs ++ rest }) rfl]

/-! ### The flag word (R40) -/

/-- A sticky flag that is set is in every later sample. -/
theorem flagSample_keeps {held : Word} {k : Nat} (hs : stickyFlags.getLsbD k = true) (h : held.getLsbD k = true)
    (raised : Word) (sdioOp : Bool) : (flagSample held raised sdioOp).getLsbD k = true := by
  simp [flagSample, hs, h]

/-- A flag that is set outlives a `FlagClear` of others. -/
theorem flagsCleared_keeps {held mask : Word} {k : Nat} (hm : mask.getLsbD k = false) (h : held.getLsbD k = true) :
    (flagsCleared held mask).getLsbD k = true := by
  simp only [flagsCleared, BitVec.getLsbD_and, BitVec.getLsbD_not, hm, h, BitVec.lt_of_getLsbD h]
  rfl

/-! ### Commands -/

section
variable {s : State}

theorem rd52_quiet (h : s.env.irqSchedule = []) (fn : Fn) (addr : RegAddr) :
    rd52 irqPoint fn addr s = .ok (s.env.cmdAnswer, { s with
      env := s.env.afterCmd, trace := .cmd cmdDirect (enc52 0 fn 0 addr 0) :: s.trace }) := by
  simp [rd52, h]

theorem wr52_quiet (h : s.env.irqSchedule = []) (fn : Fn) (addr : RegAddr) (v : Byte) :
    wr52 irqPoint fn addr v s = .ok (s.env.cmdAnswer.err, { s with
      env := s.env.afterCmd, trace := .cmd cmdDirect (enc52 1 fn 0 addr v) :: s.trace }) := by
  simp [wr52, h]

/-- A read-modify-write: the read, and only where it succeeds the write of the byte with the bits changed (R117, R289). -/
theorem rmw52_quiet (h : s.env.irqSchedule = []) (fn : Fn) (addr : RegAddr) (clear set : Byte) :
    rmw52 irqPoint fn addr clear set s =
      if s.env.cmdAnswer.err = 0 then
        .ok (s.env.afterCmd.cmdAnswer.err, { s with
          env := s.env.afterCmd.afterCmd
          trace := .cmd cmdDirect (enc52 1 fn 0 addr ((respByte s.env.cmdAnswer.resp &&& ~~~clear) ||| set)) ::
            .cmd cmdDirect (enc52 0 fn 0 addr 0) :: s.trace })
      else
        .ok (s.env.cmdAnswer.err, { s with
          env := s.env.afterCmd, trace := .cmd cmdDirect (enc52 0 fn 0 addr 0) :: s.trace }) := by
  have h2 : s.env.afterCmd.irqSchedule = [] := by simp [h]
  simp only [rmw52, bind_apply, rd52_quiet h, ite_run, pure_apply]
  rw [wr52_quiet (s := { s with
    env := s.env.afterCmd, trace := .cmd cmdDirect (enc52 0 fn 0 addr 0) :: s.trace }) h2]

/-- `DIS_FN_IRQ`'s bookkeeping with no interrupt: the function counted off, and with none left the line and the "operation
enabled" bit off (R281). -/
theorem bookDisabled_quiet (h : s.env.irqSchedule = []) (fn : Fn) :
    bookDisabled fn s = .ok ((), if (s.h.disableFn fn).fnIrqCount = 0 then { s with
      h := (s.h.disableFn fn).withIrqMask ((s.h.disableFn fn).irqMask &&& ~~~flSdioit)
      bus := { s.bus with sdioOp := false }
      trace := .busSdioOp false :: .irqDisable flSdioit :: s.trace } else { s with h := s.h.disableFn fn }) := by
  simp only [bookDisabled, bind_apply, get_apply, ite_run, updH_apply, via_quiet _ h]
  split
  · simp [via_quiet, h, portSdioOp]
  · rfl

/-- One command of the identification: what follows it where it succeeds, else the failure of R142. -/
theorem identCmd_quiet (h : s.env.irqSchedule = []) (idx : BitVec 6) (arg : Word) (next : Word → Act Bool) :
    identCmd idx arg next s =
      if s.env.cmdAnswer.err = 0 then
        next s.env.cmdAnswer.resp { s with env := s.env.afterCmd, trace := .cmd idx arg :: s.trace }
      else
        .ok (false, { s with
          h := { s.h with
            lastErrorCodes := s.h.lastErrorCodes ||| errmap s.env.cmdAnswer.err
            identState := .powerOff
            globalState := .cardRemoved }
          env := s.env.afterCmd, trace := .cmd idx arg :: s.trace }) := by
  simp only [identCmd, bind_apply, via_quiet _ h, portCmd_apply, ite_run]
  split <;> rfl

theorem identFail_apply (err : Word) : identFail err s = .ok (false, { s with
    h := { s.h with
      lastErrorCodes := s.h.lastErrorCodes ||| errmap err, identState := .powerOff, globalState := .cardRemoved } }) :=
  rfl

end

end Sys2Proof.Machine
end

