-- ==== Sys2Proof/Laws/Encoding.lean ====
section
/-! SUPPORT. The request words as numbers, and their fields: one lemma per word form and field. -/

-- one thread: the package compiles as one text
set_option Elab.async false

namespace Sys2Proof

/-- A concatenation as a number. -/
theorem toNat_append_add {m n : Nat} (x : BitVec m) (y : BitVec n) : (x ++ y).toNat = x.toNat * 2 ^ n + y.toNat := by
  rw [BitVec.toNat_append, ← Nat.shiftLeft_add_eq_or_of_lt y.isLt, Nat.shiftLeft_eq]

/-- A field as a number. -/
theorem toNat_field {w : Nat} (x : BitVec w) (s n : Nat) : (x.extractLsb' s n).toNat = x.toNat / 2 ^ s % 2 ^ n := by
  rw [BitVec.extractLsb'_toNat, Nat.shiftRight_eq_div_pow]

theorem toNat_wordN (op : Byte) : (wordN op).toNat = op.toNat * 2 ^ 24 := by
  show (op ++ (0 : BitVec 24)).toNat = _
  simp only [toNat_append_add]
  simp

theorem toNat_wordF (op : Byte) (fn : Fn) : (wordF op fn).toNat = op.toNat * 2 ^ 24 + fn.toNat * 2 ^ 17 := by
  show (op ++ (0 : BitVec 4) ++ fn ++ (0 : BitVec 17)).toNat = _
  simp only [toNat_append_add]
  simp
  omega

theorem toNat_wordD (op : Byte) (raw : Bit) (fn : Fn) (addr : RegAddr) :
    (wordD op raw fn addr).toNat = op.toNat * 2 ^ 24 + raw.toNat * 2 ^ 20 + fn.toNat * 2 ^ 17 + addr.toNat := by
  show (op ++ (0 : BitVec 3) ++ raw ++ fn ++ addr).toNat = _
  simp only [toNat_append_add]
  simp
  omega

theorem toNat_wordX (op : Byte) (bm opc : Bit) (fn : Fn) (addr : RegAddr) :
    (wordX op bm opc fn addr).toNat =
      op.toNat * 2 ^ 24 + bm.toNat * 2 ^ 21 + opc.toNat * 2 ^ 20 + fn.toNat * 2 ^ 17 + addr.toNat := by
  show (op ++ (0 : BitVec 2) ++ bm ++ opc ++ fn ++ addr).toNat = _
  simp only [toNat_append_add]
  simp
  omega

theorem toNat_wordC (op : Byte) (cid hwfc psave edge : Bit) (width : BitVec 2) :
    (wordC op cid hwfc psave edge width).toNat =
      op.toNat * 2 ^ 24 + cid.toNat * 2 ^ 8 + hwfc.toNat * 2 ^ 4 + psave.toNat * 2 ^ 3 + edge.toNat * 2 ^ 2 +
        width.toNat := by
  show (op ++ (0 : BitVec 15) ++ cid ++ (0 : BitVec 3) ++ hwfc ++ psave ++ edge ++ width).toNat = _
  simp only [toNat_append_add]
  simp
  omega

theorem toNat_wordI (op : Byte) (xcvr : Bit) : (wordI op xcvr).toNat = op.toNat * 2 ^ 24 + xcvr.toNat := by
  show (op ++ (0 : BitVec 23) ++ xcvr).toNat = _
  simp only [toNat_append_add]
  simp
  omega

theorem toNat_wordK (op : Byte) (fn : Fn) (sel : BitVec 4) :
    (wordK op fn sel).toNat = op.toNat * 2 ^ 24 + fn.toNat * 2 ^ 17 + sel.toNat := by
  show (op ++ (0 : BitVec 4) ++ fn ++ (0 : BitVec 13) ++ sel).toNat = _
  simp only [toNat_append_add]
  simp
  omega

theorem toNat_wordData (data : Byte) : (wordData data).toNat = data.toNat := by
  show ((0 : BitVec 24) ++ data).toNat = _
  simp only [toNat_append_add]
  simp

/-! ### Fields of the request words -/

section
variable (op : Byte) (raw bm opc cid hwfc psave edge xcvr : Bit) (fn : Fn) (addr : RegAddr) (width : BitVec 2)
  (sel : BitVec 4) (data : Byte)

@[simp] theorem opcodeOf_wordN : opcodeOf (wordN op) = op.toNat := by
  simp only [opcodeOf, toNat_field, toNat_wordN]; have := op.isLt; omega
@[simp] theorem opcodeOf_wordF : opcodeOf (wordF op fn) = op.toNat := by
  simp only [opcodeOf, toNat_field, toNat_wordF]; have := op.isLt; have := fn.isLt; omega
@[simp] theorem opcodeOf_wordD : opcodeOf (wordD op raw fn addr) = op.toNat := by
  simp only [opcodeOf, toNat_field, toNat_wordD]
  have := op.isLt; have := fn.isLt; have := raw.isLt; have := addr.isLt; omega
@[simp] theorem opcodeOf_wordX : opcodeOf (wordX op bm opc fn addr) = op.toNat := by
  simp only [opcodeOf, toNat_field, toNat_wordX]
  have := op.isLt; have := fn.isLt; have := bm.isLt; have := opc.isLt; have := addr.isLt; omega
@[simp] theorem opcodeOf_wordC : opcodeOf (wordC op cid hwfc psave edge width) = op.toNat := by
  simp only [opcodeOf, toNat_field, toNat_wordC]
  have := op.isLt; have := cid.isLt; have := hwfc.isLt; have := psave.isLt; have := edge.isLt; have := width.isLt; omega
@[simp] theorem opcodeOf_wordI : opcodeOf (wordI op xcvr) = op.toNat := by
  simp only [opcodeOf, toNat_field, toNat_wordI]; have := op.isLt; have := xcvr.isLt; omega
@[simp] theorem opcodeOf_wordK : opcodeOf (wordK op fn sel) = op.toNat := by
  simp only [opcodeOf, toNat_field, toNat_wordK]; have := op.isLt; have := fn.isLt; have := sel.isLt; omega

@[simp] theorem dirtyN_wordN : dirtyN (wordN op) = false := by
  simp only [dirtyN, bne_eq_false_iff_eq, BitVec.toNat_eq, toNat_field, toNat_wordN, BitVec.ofNat_eq_ofNat, BitVec.toNat_ofNat]; omega
@[simp] theorem dirtyF_wordF : dirtyF (wordF op fn) = false := by
  simp only [dirtyF, Bool.or_eq_false_iff, bne_eq_false_iff_eq, BitVec.toNat_eq, toNat_field, toNat_wordF,
    BitVec.ofNat_eq_ofNat, BitVec.toNat_ofNat]
  have := fn.isLt; omega
@[simp] theorem dirtyD_wordD : dirtyD (wordD op raw fn addr) = false := by
  simp only [dirtyD, bne_eq_false_iff_eq, BitVec.toNat_eq, toNat_field, toNat_wordD, BitVec.ofNat_eq_ofNat, BitVec.toNat_ofNat]
  have := fn.isLt; have := raw.isLt; have := addr.isLt; omega
@[simp] theorem dirtyX_wordX : dirtyX (wordX op bm opc fn addr) = false := by
  simp only [dirtyX, bne_eq_false_iff_eq, BitVec.toNat_eq, toNat_field, toNat_wordX, BitVec.ofNat_eq_ofNat, BitVec.toNat_ofNat]
  have := fn.isLt; have := bm.isLt; have := opc.isLt; have := addr.isLt; omega
@[simp] theorem dirtyC_wordC : dirtyC (wordC op cid hwfc psave edge width) = false := by
  simp only [dirtyC, Bool.or_eq_false_iff, bne_eq_false_iff_eq, BitVec.toNat_eq, toNat_field, toNat_wordC,
    BitVec.ofNat_eq_ofNat, BitVec.toNat_ofNat]
  have := cid.isLt; have := hwfc.isLt; have := psave.isLt; have := edge.isLt; have := width.isLt; omega
@[simp] theorem dirtyI_wordI : dirtyI (wordI op xcvr) = false := by
  simp only [dirtyI, bne_eq_false_iff_eq, BitVec.toNat_eq, toNat_field, toNat_wordI, BitVec.ofNat_eq_ofNat, BitVec.toNat_ofNat]
  have := xcvr.isLt; omega
@[simp] theorem dirtyK_wordK : dirtyK (wordK op fn sel) = false := by
  simp only [dirtyK, Bool.or_eq_false_iff, bne_eq_false_iff_eq, BitVec.toNat_eq, toNat_field, toNat_wordK,
    BitVec.ofNat_eq_ofNat, BitVec.toNat_ofNat]
  have := fn.isLt; have := sel.isLt; omega
@[simp] theorem dirtyData_wordData : dirtyData (wordData data) = false := by
  simp only [dirtyData, bne_eq_false_iff_eq, BitVec.toNat_eq, toNat_field, toNat_wordData, BitVec.ofNat_eq_ofNat, BitVec.toNat_ofNat]
  have := data.isLt; omega

@[simp] theorem fnField_wordF : fnField (wordF op fn) = fn := by
  simp only [fnField, BitVec.toNat_eq, toNat_field, toNat_wordF]; have := fn.isLt; omega
@[simp] theorem fnField_wordD : fnField (wordD op raw fn addr) = fn := by
  simp only [fnField, BitVec.toNat_eq, toNat_field, toNat_wordD]
  have := fn.isLt; have := raw.isLt; have := addr.isLt; omega
@[simp] theorem fnField_wordX : fnField (wordX op bm opc fn addr) = fn := by
  simp only [fnField, BitVec.toNat_eq, toNat_field, toNat_wordX]
  have := fn.isLt; have := bm.isLt; have := opc.isLt; have := addr.isLt; omega
@[simp] theorem fnField_wordK : fnField (wordK op fn sel) = fn := by
  simp only [fnField, BitVec.toNat_eq, toNat_field, toNat_wordK]; have := fn.isLt; have := sel.isLt; omega
@[simp] theorem selField_wordK : selField (wordK op fn sel) = sel := by
  simp only [selField, BitVec.toNat_eq, toNat_field, toNat_wordK]; have := fn.isLt; have := sel.isLt; omega
@[simp] theorem addrField_wordD : addrField (wordD op raw fn addr) = addr := by
  simp only [addrField, BitVec.toNat_eq, toNat_field, toNat_wordD]
  have := fn.isLt; have := raw.isLt; have := addr.isLt; omega
@[simp] theorem addrField_wordX : addrField (wordX op bm opc fn addr) = addr := by
  simp only [addrField, BitVec.toNat_eq, toNat_field, toNat_wordX]
  have := fn.isLt; have := bm.isLt; have := opc.isLt; have := addr.isLt; omega
@[simp] theorem dataField_wordData : dataField (wordData data) = data := by
  simp only [dataField, BitVec.toNat_eq, toNat_field, toNat_wordData]; have := data.isLt; omega
@[simp] theorem bitAt_wordD_raw : bitAt (wordD op raw fn addr) 20 = raw := by
  simp only [bitAt, BitVec.toNat_eq, toNat_field, toNat_wordD]
  have := fn.isLt; have := raw.isLt; have := addr.isLt; omega
@[simp] theorem bitAt_wordX_bm : bitAt (wordX op bm opc fn addr) 21 = bm := by
  simp only [bitAt, BitVec.toNat_eq, toNat_field, toNat_wordX]
  have := fn.isLt; have := bm.isLt; have := opc.isLt; have := addr.isLt; omega
@[simp] theorem bitAt_wordX_opc : bitAt (wordX op bm opc fn addr) 20 = opc := by
  simp only [bitAt, BitVec.toNat_eq, toNat_field, toNat_wordX]
  have := fn.isLt; have := bm.isLt; have := opc.isLt; have := addr.isLt; omega
@[simp] theorem bitAt_wordI : bitAt (wordI op xcvr) 0 = xcvr := by
  simp only [bitAt, BitVec.toNat_eq, toNat_field, toNat_wordI]; have := xcvr.isLt; omega
@[simp] theorem bitAt_wordC_cid : bitAt (wordC op cid hwfc psave edge width) 8 = cid := by
  simp only [bitAt, BitVec.toNat_eq, toNat_field, toNat_wordC]
  have := cid.isLt; have := hwfc.isLt; have := psave.isLt; have := edge.isLt; have := width.isLt; omega
@[simp] theorem bitAt_wordC_hwfc : bitAt (wordC op cid hwfc psave edge width) 4 = hwfc := by
  simp only [bitAt, BitVec.toNat_eq, toNat_field, toNat_wordC]
  have := cid.isLt; have := hwfc.isLt; have := psave.isLt; have := edge.isLt; have := width.isLt; omega
@[simp] theorem bitAt_wordC_psave : bitAt (wordC op cid hwfc psave edge width) 3 = psave := by
  simp only [bitAt, BitVec.toNat_eq, toNat_field, toNat_wordC]
  have := cid.isLt; have := hwfc.isLt; have := psave.isLt; have := edge.isLt; have := width.isLt; omega
@[simp] theorem bitAt_wordC_edge : bitAt (wordC op cid hwfc psave edge width) 2 = edge := by
  simp only [bitAt, BitVec.toNat_eq, toNat_field, toNat_wordC]
  have := cid.isLt; have := hwfc.isLt; have := psave.isLt; have := edge.isLt; have := width.isLt; omega
@[simp] theorem widthField_wordC : widthField (wordC op cid hwfc psave edge width) = width := by
  simp only [widthField, BitVec.toNat_eq, toNat_field, toNat_wordC]
  have := cid.isLt; have := hwfc.isLt; have := psave.isLt; have := edge.isLt; have := width.isLt; omega

end

/-! ### Clean words are the words of their fields -/

theorem wordN_eta {w : Word} (h : dirtyN w = false) : w = wordN (w.extractLsb' 24 8) := by
  simp only [dirtyN, bne_eq_false_iff_eq, BitVec.toNat_eq, toNat_field, BitVec.ofNat_eq_ofNat,
    BitVec.toNat_ofNat] at h
  simp only [BitVec.toNat_eq, toNat_wordN, toNat_field]
  have := w.isLt
  omega
theorem wordF_eta {w : Word} (h : dirtyF w = false) : w = wordF (w.extractLsb' 24 8) (fnField w) := by
  simp only [dirtyF, Bool.or_eq_false_iff, bne_eq_false_iff_eq, BitVec.toNat_eq, toNat_field, BitVec.ofNat_eq_ofNat,
    BitVec.toNat_ofNat] at h
  simp only [BitVec.toNat_eq, toNat_wordF, toNat_field, fnField]
  have := w.isLt
  omega
theorem wordD_eta {w : Word} (h : dirtyD w = false) : w = wordD (w.extractLsb' 24 8) (bitAt w 20) (fnField w) (addrField w) := by
  simp only [dirtyD, bne_eq_false_iff_eq, BitVec.toNat_eq, toNat_field, BitVec.ofNat_eq_ofNat,
    BitVec.toNat_ofNat] at h
  simp only [BitVec.toNat_eq, toNat_wordD, toNat_field, bitAt, fnField, addrField]
  have := w.isLt
  omega
theorem wordX_eta {w : Word} (h : dirtyX w = false) : w = wordX (w.extractLsb' 24 8) (bitAt w 21) (bitAt w 20) (fnField w) (addrField w) := by
  simp only [dirtyX, bne_eq_false_iff_eq, BitVec.toNat_eq, toNat_field, BitVec.ofNat_eq_ofNat,
    BitVec.toNat_ofNat] at h
  simp only [BitVec.toNat_eq, toNat_wordX, toNat_field, bitAt, fnField, addrField]
  have := w.isLt
  omega
theorem wordC_eta {w : Word} (h : dirtyC w = false) : w = wordC (w.extractLsb' 24 8) (bitAt w 8) (bitAt w 4) (bitAt w 3) (bitAt w 2) (widthField w) := by
  simp only [dirtyC, Bool.or_eq_false_iff, bne_eq_false_iff_eq, BitVec.toNat_eq, toNat_field, BitVec.ofNat_eq_ofNat,
    BitVec.toNat_ofNat] at h
  simp only [BitVec.toNat_eq, toNat_wordC, toNat_field, bitAt, widthField]
  have := w.isLt
  omega
theorem wordI_eta {w : Word} (h : dirtyI w = false) : w = wordI (w.extractLsb' 24 8) (bitAt w 0) := by
  simp only [dirtyI, bne_eq_false_iff_eq, BitVec.toNat_eq, toNat_field, BitVec.ofNat_eq_ofNat,
    BitVec.toNat_ofNat] at h
  simp only [BitVec.toNat_eq, toNat_wordI, toNat_field, bitAt]
  have := w.isLt
  omega
theorem wordK_eta {w : Word} (h : dirtyK w = false) : w = wordK (w.extractLsb' 24 8) (fnField w) (selField w) := by
  simp only [dirtyK, Bool.or_eq_false_iff, bne_eq_false_iff_eq, BitVec.toNat_eq, toNat_field, BitVec.ofNat_eq_ofNat,
    BitVec.toNat_ofNat] at h
  simp only [BitVec.toNat_eq, toNat_wordK, toNat_field, fnField, selField]
  have := w.isLt
  omega
theorem wordData_eta {w : Word} (h : dirtyData w = false) : w = wordData (dataField w) := by
  simp only [dirtyData, bne_eq_false_iff_eq, BitVec.toNat_eq, toNat_field, BitVec.ofNat_eq_ofNat,
    BitVec.toNat_ofNat] at h
  simp only [BitVec.toNat_eq, toNat_wordData, toNat_field, dataField]
  have := w.isLt
  omega

/-- The opcode as a byte of the word. -/
theorem opcodeOf_eq {w : Word} {n : Nat} (h : opcodeOf w = n) : w.extractLsb' 24 8 = BitVec.ofNat 8 n := by
  rw [← h, opcodeOf, BitVec.ofNat_toNat, BitVec.setWidth_eq]

end Sys2Proof
end

