-- ==== Sys2Proof/Certificates/Slice0/Obligations.lean ====
section
/-! DEFINITION. The statements for the provers. In every statement about a foreground request `s.quiet` says that the
platform takes no interrupt while it runs (R15); the statements about interrupts are further down. Where events are emitted
`s.noCallbacks` says that no callback submits a request (R347); what such a request does is a statement of its own. Traces
are newest first. -/

open Sys2Proof Sys2Proof.Machine

/-! ### Encoding and the step -/

/-- Decoding the words of any request gives it back, whatever words follow (R90 to R92). -/
def Obligations.DecodeOfEncode : Prop := ∀ (i : Instr) (rest : List Word), decode (encode i ++ rest) = .instr i rest

/-- Words that decode to a request are that request's own words: no bit of a request is ignored (R90, R111). -/
def Obligations.DecodedWordsAreCanonical : Prop :=
  ∀ (ws rest : List Word) (i : Instr), decode ws = .instr i rest → ws = encode i ++ rest

/-- Request words of the spec decode to the requests they stand for (R202, R203, R250, R296, R280, P1). -/
def Obligations.WorkedWordsDecode : Prop :=
  decode [0x10000005] = .instr (.readDirect 0 0 0x5) [] ∧
  decode [0x11100007, 0x00000002] = .instr (.writeDirect 1 0 0x7 0x02) [] ∧
  decode [0x14328000, 0x20000000, 0x000000C8] = .instr (.readExtDma 1 1 1 0x8000 0x20000000 200) [] ∧
  decode [0x17060004, 0x00000033] = .instr (.regCallback 3 4 0x33) [] ∧
  decode [0x1A060000] = .instr (.enFnIrq 3) [] ∧
  decode [0x03000001, 0x016E3600] = .instr (.setConfig 0 0 0 0 1 24000000) []

/-- A step at a state whose request words decode to a request runs `exec` of it on the state with its words consumed,
where no interruption point is due before it (R9, R368). Where one is due and is not taken, or the interrupt line is low
there (R330), it is used up and what the data path raised by then stands in the flag word: the schedule of interruption
points is the model's (log 3, log 13). With no interrupt due and no
whole request at the port the block waits: with no request at all by R380, with an incomplete one by the model's choice
(log 5). -/
def Obligations.StepRunsDecodedRequest : Prop :=
  ∀ s : State,
    (∀ (i : Instr) (rest : List Word), decode s.requests = .instr i rest →
      (s.env.irqSchedule = [] → step s = exec i { s with requests := rest }) ∧
      (∀ q sched, s.env.irqSchedule = q :: sched → q.taken = false ∨ irqLine (s.atPoint q sched) = false →
        step s = exec i { s.atPoint q sched with requests := rest })) ∧
    (s.env.irqSchedule = [] → decode s.requests = .waiting → step s = .next s)

/-- A step that enters the handler from the vector, which it does where the interrupt line is asserted (R330), does what the
injected `IRQ_HANDLER` does, without its response (R340). -/
def Obligations.VectorEntryIsHandlerWithoutResponse : Prop :=
  ∀ (s : State) (q : IrqPoint) (sched : List IrqPoint), s.env.irqSchedule = q :: sched → q.taken = true →
    irqLine (s.atPoint q sched) = true → s.noCallbacks → s.Inv →
    ∃ t, step s = .next t ∧ exec .irqHandler (s.atPoint q sched) = .next (t.answered [0]) ∧
      t.response = s.response

/-- A reserved opcode, 0x00 or 0x22 to 0xFF, is answered `ST_INVALID_PARAM`: no state change, no port action (R110). -/
def Obligations.ReservedOpcodeAnswered : Prop :=
  ∀ (s : State) (w : Word) (ws : List Word), s.quiet → s.requests = w :: ws →
    (opcodeOf w = 0 ∨ 0x22 ≤ opcodeOf w) →
    ∃ rest, step s = .next (State.answered { s with requests := rest } [4])

/-- A request with a must-be-zero bit set, in the order of checks of R327: one the spec refuses is refused, one in a wrong
state is answered `ST_BUSY`, any other `ST_INVALID_PARAM`, after the error mask has been cleared where the request clears
it. That the answer of R111 has cleared the mask, and that a malformed `IRQ_HANDLER` is given it, is the model's reading
of R111 against R327 and R340 (log 19). -/
def Obligations.MalformedRequestAnswered : Prop :=
  ∀ (s : State) (i : Instr) (rest : List Word), s.quiet → decode s.requests = .malformed i rest →
    (∀ r, refusalOf i = some r → step s = .refused r) ∧
    (refusalOf i = none → accepts i s = false → step s = .next (State.answered { s with requests := rest } [2])) ∧
    (refusalOf i = none → accepts i s = true →
      step s = .next (State.answered { s with
        requests := rest
        h := { s.h with lastErrorCodes := if clearsErrors i s then 0 else s.h.lastErrorCodes } } [4]))

/-! ### Legal states and refusals -/

/-- In a state outside a request's legal set the answer is `ST_BUSY` and nothing else happens (R323); and the blank cells of
the table of legal states, request by request (R350). -/
def Obligations.WrongStateAnsweredBusy : Prop :=
  (∀ (i : Instr) (s : State), refusalOf i = none → accepts i s = false → exec i s = .next (s.answered [2])) ∧
  ∀ (s : State),
    (s.h.globalState ≠ .reset → ∀ x n, exec (.init x n) s = .next (s.answered [2])) ∧
    (s.h.globalState ≠ .init → s.h.globalState ≠ .idle → ∀ hw p e w hz,
      exec (.setConfig 0 hw p e w hz) s = .next (s.answered [2])) ∧
    (s.h.globalState = .reset ∨ s.h.globalState = .init →
      exec .getConfig s = .next (s.answered [2]) ∧ exec .getBusWidth s = .next (s.answered [2]) ∧
      exec .getClockFreq s = .next (s.answered [2])) ∧
    (s.h.globalState = .reset →
      exec .notifyRemoval s = .next (s.answered [2]) ∧ exec .getDataTimeout s = .next (s.answered [2])) ∧
    (s.h.globalState ≠ .cardRemoved → ∀ hw p e w hz,
      exec (.notifyInsertion 0 hw p e w hz) s = .next (s.answered [2])) ∧
    (s.h.globalState = .reset ∨ s.h.globalState = .active →
      (∀ v, exec (.setDataTimeout v) s = .next (s.answered [2])) ∧
      (∀ fn sel cb, exec (.regCallback fn sel cb) s = .next (s.answered [2]))) ∧
    (s.h.globalState ≠ .idle →
      (∀ v, exec (.setBusWidth v) s = .next (s.answered [2])) ∧
      (∀ v, exec (.setClockFreq v) s = .next (s.answered [2])) ∧
      (∀ fn v, exec (.setBlockSize fn v) s = .next (s.answered [2])) ∧
      (∀ r fn a, exec (.readDirect r fn a) s = .next (s.answered [2])) ∧
      (∀ r fn a d, exec (.writeDirect r fn a d) s = .next (s.answered [2])) ∧
      (∀ bm op fn a b n t, exec (.readExt bm op fn a b n t) s = .next (s.answered [2])) ∧
      (∀ bm op fn a b n t, exec (.writeExt bm op fn a b n t) s = .next (s.answered [2])) ∧
      (∀ bm op fn a b n, exec (.readExtDma bm op fn a b n) s = .next (s.answered [2])) ∧
      (∀ bm op fn a b n, exec (.writeExtDma bm op fn a b n) s = .next (s.answered [2])) ∧
      exec .getCccr s = .next (s.answered [2]) ∧
      (∀ fn, exec (.getFbr fn) s = .next (s.answered [2]) ∧ exec (.enFnIrq fn) s = .next (s.answered [2]) ∧
        exec (.disFnIrq fn) s = .next (s.answered [2]) ∧ exec (.enFn fn) s = .next (s.answered [2]) ∧
        exec (.disFn fn) s = .next (s.answered [2]) ∧ exec (.selFn fn) s = .next (s.answered [2]))) ∧
    (s.h.globalState ≠ .idle →
      ¬(s.h.globalState = .active ∧ s.params.abortWhileActive = true ∧ s.h.context.getLsbD 3 = true) →
      ∀ fn, exec (.abortFn fn) s = .next (s.answered [2]))

/-- The requests the spec refuses, in every state (R192, R193, R196), and those with a supplied custom identify function,
before the state check (R112, R327). -/
def Obligations.RefusedInEveryState : Prop :=
  ∀ (s : State) (v : Word),
    exec (.setSpeedMode v) s = .refused .noSemantics ∧ exec .resetCard s = .refused .noSemantics ∧
    exec (.dlybConfig v) s = .refused .outOfScope ∧ exec .dlybCalibrate s = .refused .outOfScope ∧
    ∀ (hw p e : Bit) (w : BitVec 2),
      exec (.setConfig 1 hw p e w v) s = .refused .customIdentify ∧
      exec (.notifyInsertion 1 hw p e w v) s = .refused .customIdentify

/-! ### Lifecycle and configuration -/

/-- `INIT` from `Reset` writes every field of the handle (R51) with the default configuration (R43), after its three port
actions (R160). The divider is `div_of(k, 400000)` where that fits `DIV_BITS`; elsewhere no rule says, and it is any value
of that width (log 11). -/
def Obligations.InitWritesTheHandle : Prop :=
  ∀ (s : State) (xcvr : Bit) (inst : Word), s.quiet → s.h.globalState = .reset →
    ∃ (d : Word) (n : Nat),
      ((s.env.clock.toNat / 800000 < 2 ^ s.params.divBits →
        d = BitVec.ofNat 32 (s.env.clock.toNat / 800000) ∧ n = s.env.afterClock.drawn)) ∧
      d.toNat < 2 ^ s.params.divBits ∧
      exec (.init xcvr inst) s = .next (State.answered { s with
        h := {
          instanceId := inst, globalState := .init, context := 0, identState := .powerOff, blockSize := 0
          dataTimeoutCycles := 0xFFFFFFFF, transceiverMode := xcvr, lastErrorCodes := 0, remainingData := 0
          nextRegAddr := 0, nextDataAddr := 0, xferSize := 0, pXferBuff := 0, contDesc := ⟨0, 0, 0⟩, fnIrqCount := 0
          fnIrqMask := 0, cfg := ⟨0, 0, 0, 0, d, 400000⟩, cbRxComplete := 0, cbTxComplete := 0, cbError := 0
          cbTransceiver := 0, fnCb := ⟨0, 0, 0, 0, 0, 0, 0⟩, irqMask := 0 }
        env := { s.env.afterClock with flags := flagsCleared s.env.flags 0x13A, drawn := n }
        trace := .clockHz :: .flagClear 0x13A :: .irqDisable 0x0040013A :: s.trace } [0])

/-- `DEINIT` from every state ends in `Reset` with the values of R52, whatever was in flight; it disables the data path,
tears down a DMA request in flight without an event, switches the bus off and clears the static flags (R161, R382). Only
the buffer of a DMA read in flight may change in memory. The divider it writes is the model's free value, of `DIV_BITS`
bits (log 11, log 12). -/
def Obligations.DeinitFromEveryState : Prop :=
  ∀ s : State, s.quiet →
    ∃ (d : Word) (m : Memory) (bytes : List Byte) (k : Nat),
      exec .deinit s = .next (State.answered { s with
        h := {
          instanceId := s.h.instanceId, globalState := .reset, context := 0, identState := .powerOff, blockSize := 0
          dataTimeoutCycles := 0xFFFFFFFF, transceiverMode := 0, lastErrorCodes := 0, remainingData := 0
          nextRegAddr := 0, nextDataAddr := 0, xferSize := 0, pXferBuff := 0, contDesc := ⟨0, 0, 0⟩, fnIrqCount := 0
          fnIrqMask := 0, cfg := ⟨0, 0, 0, 0, d, 400000⟩, cbRxComplete := 0, cbTxComplete := 0, cbError := 0
          cbTransceiver := 0, fnCb := ⟨0, 0, 0, 0, 0, 0, 0⟩, irqMask := 0 }
        mem := m
        dpath := { s.dpath with enabled := false }
        dma := if s.h.context.getLsbD 3 then none else s.dma
        bus := { s.bus with sdioOp := false, powered := false }
        env := { s.env with flags := flagsCleared s.env.flags 0x13A, dmaScript := bytes, drawn := k }
        trace := .flagClear 0x13A :: .busPower false :: .busSdioOp false ::
          ((if s.h.context.getLsbD 3 then [.dmaTeardown] else []) ++
            .dpathDisable :: .irqDisable 0x0040013A :: s.trace) } [0]) ∧
      d.toNat < 2 ^ s.params.divBits ∧
      (¬(s.h.context.getLsbD 3 = true ∧ s.h.context.getLsbD 0 = true) → m = s.mem ∧ bytes = s.env.dmaScript) ∧
      (∀ a, (∀ j < s.h.xferSize.toNat + s.h.remainingData.toNat, a ≠ (s.h.pXferBuff + BitVec.ofNat 32 j).toNat) →
        m.read a = s.mem.read a)

/-- `NOTIFY_REMOVAL` from every state but `Reset` forces the default configuration and `CardRemoved` (R171, R176), drops a
DMA request in flight without an event, and keeps the callback slots, the block size and the timeout. The divider is
`div_of(k, 400000)` of the clock read after the clean-up, where that fits `DIV_BITS` (log 11). Only the buffer of a DMA
read in flight may change in memory. -/
def Obligations.NotifyRemovalResult : Prop :=
  ∀ s : State, s.quiet → s.h.globalState ≠ .reset →
    ∃ (d : Word) (m : Memory) (bytes : List Byte) (k n : Nat) (e : Env),
      e = { s.env with flags := flagsCleared s.env.flags 0x13A, dmaScript := bytes, drawn := k } ∧
      exec .notifyRemoval s = .next (State.answered { s with
        h := { s.h with
          globalState := .cardRemoved, context := 0, identState := .powerOff, lastErrorCodes := 0, remainingData := 0
          fnIrqCount := 0, fnIrqMask := 0, cfg := ⟨0, 0, 0, 0, d, 400000⟩
          irqMask := s.h.irqMask &&& ~~~0x0040013A }
        mem := m
        dpath := { s.dpath with enabled := false }
        dma := if s.h.context.getLsbD 3 then none else s.dma
        bus := { s.bus with width := 0, edge := 0, psave := 0, hwfc := 0, div := d, sdioOp := false }
        env := { e.afterClock with drawn := n }
        trace := .busConfig 0 0 0 0 d :: .clockHz :: .flagClear 0x13A :: .busSdioOp false ::
          ((if s.h.context.getLsbD 3 then [.dmaTeardown] else []) ++
            .dpathDisable :: .irqDisable 0x0040013A :: s.trace) } [0]) ∧
      (e.clock.toNat / 800000 < 2 ^ s.params.divBits →
        d = BitVec.ofNat 32 (e.clock.toNat / 800000) ∧ n = e.afterClock.drawn) ∧
      d.toNat < 2 ^ s.params.divBits ∧
      (¬(s.h.context.getLsbD 3 = true ∧ s.h.context.getLsbD 0 = true) →
        m = s.mem ∧ bytes = s.env.dmaScript ∧ k = s.env.drawn) ∧
      (∀ a, (∀ j < s.h.xferSize.toNat + s.h.remainingData.toNat, a ≠ (s.h.pXferBuff + BitVec.ofNat 32 j).toNat) →
        m.read a = s.mem.read a)

/-- The four getters answer their field and touch nothing else, in each of their legal states, and answer `ST_BUSY` in any
other (R174, R181, R184, R190). -/
def Obligations.GettersReadBack : Prop :=
  ∀ s : State,
    (s.h.globalState = .idle ∨ s.h.globalState = .active ∨ s.h.globalState = .cardRemoved →
      exec .getConfig s = .next (s.answered [0,
        (0 : BitVec 27) ++ s.h.cfg.hwFlowControl ++ s.h.cfg.clockPowerSave ++ s.h.cfg.clockEdge ++ s.h.cfg.busWidth,
        s.h.cfg.clockHz, s.h.cfg.clockDiv]) ∧
      exec .getBusWidth s = .next (s.answered [0, (0 : BitVec 30) ++ s.h.cfg.busWidth]) ∧
      (s.quiet → exec .getClockFreq s = .next (State.answered
        { s with env := s.env.afterClock, trace := .clockHz :: s.trace }
        [0, BitVec.ofNat 32 (if s.h.cfg.clockDiv = 0 then s.env.clock.toNat / 2
          else s.env.clock.toNat / (2 * s.h.cfg.clockDiv.toNat))]))) ∧
    (s.h.globalState ≠ .reset → exec .getDataTimeout s = .next (s.answered [0, s.h.dataTimeoutCycles])) ∧
    (s.h.globalState = .reset ∨ s.h.globalState = .init → exec .getConfig s = .next (s.answered [2]) ∧
      exec .getBusWidth s = .next (s.answered [2]) ∧ exec .getClockFreq s = .next (s.answered [2])) ∧
    (s.h.globalState = .reset → exec .getDataTimeout s = .next (s.answered [2]))

/-- `SET_DATA_TIMEOUT` stores its operand, with no port action, from `Init`, `Idle` and `CardRemoved` (R189). -/
def Obligations.SetDataTimeoutStores : Prop :=
  ∀ (s : State) (v : Word), s.h.globalState = .init ∨ s.h.globalState = .idle ∨ s.h.globalState = .cardRemoved →
    exec (.setDataTimeout v) s = .next (State.answered { s with h := { s.h with dataTimeoutCycles := v } } [0])

/-- `SET_BUS_WIDTH` from `Idle` (R180): a code above 2 is rejected; else the card is written first, and only when that
succeeds are the bus and the configuration changed. -/
def Obligations.SetBusWidthResult : Prop :=
  ∀ (s : State) (v : Word), s.quiet → s.h.globalState = .idle →
    (2 < v.toNat → exec (.setBusWidth v) s = .next (State.answered { s with h := { s.h with lastErrorCodes := 0 } } [4])) ∧
    (∀ w : BitVec 2, v.toNat = w.toNat → w.toNat ≤ 2 → ∀ b : Byte, b = (if w = 0 then 0 else if w = 1 then 2 else 3) →
      (s.env.cmdAnswer.err = 0 → exec (.setBusWidth v) s = .next (State.answered { s with
        h := { s.h with lastErrorCodes := 0, cfg := { s.h.cfg with busWidth := w } }
        bus := { s.bus with
          width := w, edge := s.h.cfg.clockEdge, psave := s.h.cfg.clockPowerSave, hwfc := s.h.cfg.hwFlowControl
          div := s.h.cfg.clockDiv }
        env := s.env.afterCmd
        trace := .busConfig w s.h.cfg.clockEdge s.h.cfg.clockPowerSave s.h.cfg.hwFlowControl s.h.cfg.clockDiv ::
          .cmd 52 (enc52 1 0 0 0x7 b) :: s.trace } [0])) ∧
      (s.env.cmdAnswer.err ≠ 0 → exec (.setBusWidth v) s = .next (State.answered { s with
        h := { s.h with lastErrorCodes := errmap s.env.cmdAnswer.err }
        env := s.env.afterCmd
        trace := .cmd 52 (enc52 1 0 0 0x7 b) :: s.trace } [1])))

/-- `SET_CLOCK_FREQ` from `Idle` (R167, R183): the checks, then the bus and the configuration; no command, and `Idle`
throughout. From any other state `ST_BUSY`. That the clock is read before a frequency of 0 is turned away, and that this
comes before a clock that is not ready, is the model's reading of R167's order (log 23). -/
def Obligations.SetClockFreqResult : Prop :=
  (∀ (s : State) (f : Word), s.h.globalState ≠ .idle → exec (.setClockFreq f) s = .next (s.answered [2])) ∧
  ∀ (s : State) (f : Word), s.quiet → s.h.globalState = .idle →
    (f = 0 ∨ 2 ^ s.params.divBits ≤ s.env.clock.toNat / (2 * f.toNat) →
      exec (.setClockFreq f) s = .next (State.answered { s with
        h := { s.h with lastErrorCodes := 0 }, env := s.env.afterClock, trace := .clockHz :: s.trace } [4])) ∧
    (f ≠ 0 → s.env.clock = 0 → exec (.setClockFreq f) s = .next (State.answered { s with
      h := { s.h with lastErrorCodes := 0x8 }, env := s.env.afterClock, trace := .clockHz :: s.trace } [1])) ∧
    (f ≠ 0 → s.env.clock ≠ 0 → s.env.clock.toNat / (2 * f.toNat) < 2 ^ s.params.divBits →
      ∀ d : Word, d = BitVec.ofNat 32 (s.env.clock.toNat / (2 * f.toNat)) →
      exec (.setClockFreq f) s = .next (State.answered { s with
        h := { s.h with lastErrorCodes := 0, cfg := { s.h.cfg with clockDiv := d, clockHz := f } }
        bus := { s.bus with
          width := s.h.cfg.busWidth, edge := s.h.cfg.clockEdge, psave := s.h.cfg.clockPowerSave
          hwfc := s.h.cfg.hwFlowControl, div := d }
        env := s.env.afterClock
        trace := .busConfig s.h.cfg.busWidth s.h.cfg.clockEdge s.h.cfg.clockPowerSave s.h.cfg.hwFlowControl d ::
          .clockHz :: s.trace } [0]))

/-- `SET_BLOCK_SIZE` from `Idle` (R186): 0 and a value above `BLOCK_SIZE_MAX` are rejected; else the card's two registers are
written, low byte first, where the parameter says so, and the handle's size only when no command failed. -/
def Obligations.SetBlockSizeResult : Prop :=
  ∀ (s : State) (fn : Fn) (v : Word), s.quiet → s.h.globalState = .idle →
    (v = 0 ∨ s.params.blockSizeMax < v.toNat →
      exec (.setBlockSize fn v) s = .next (State.answered { s with h := { s.h with lastErrorCodes := 0 } } [4])) ∧
    (v ≠ 0 → v.toNat ≤ s.params.blockSizeMax →
      ∀ low high : PortAction,
        low = .cmd 52 (enc52 1 0 0 (BitVec.ofNat 17 (0x100 * fn.toNat + 0x10)) (v.extractLsb' 0 8)) →
        high = .cmd 52 (enc52 1 0 0 (BitVec.ofNat 17 (0x100 * fn.toNat + 0x11)) (v.extractLsb' 8 8)) →
      (s.params.setBlockSizeWritesCard = false → exec (.setBlockSize fn v) s = .next (State.answered
        { s with h := { s.h with lastErrorCodes := 0, blockSize := v } } [0])) ∧
      (s.params.setBlockSizeWritesCard = true → (s.env.answerAt 0).err = 0 → (s.env.answerAt 1).err = 0 →
        exec (.setBlockSize fn v) s = .next (State.answered { s with
          h := { s.h with lastErrorCodes := 0, blockSize := v }
          env := s.env.afterCmds 2, trace := high :: low :: s.trace } [0])) ∧
      (s.params.setBlockSizeWritesCard = true → (s.env.answerAt 0).err ≠ 0 →
        exec (.setBlockSize fn v) s = .next (State.answered { s with
          h := { s.h with lastErrorCodes := errmap (s.env.answerAt 0).err }
          env := s.env.afterCmds 1, trace := low :: s.trace } [1])) ∧
      (s.params.setBlockSizeWritesCard = true → (s.env.answerAt 0).err = 0 → (s.env.answerAt 1).err ≠ 0 →
        exec (.setBlockSize fn v) s = .next (State.answered { s with
          h := { s.h with lastErrorCodes := errmap (s.env.answerAt 1).err }
          env := s.env.afterCmds 2, trace := high :: low :: s.trace } [1])))

/-- `REG_CALLBACK` from `Init`, `Idle` and `CardRemoved` (R296): the slot that `SEL` and `FN` name, and no other, with no port
action; an operand R111 reserves is rejected. -/
def Obligations.RegCallbackStores : Prop :=
  ∀ (s : State) (fn : Fn) (sel : BitVec 4) (cb : Word),
    s.h.globalState = .init ∨ s.h.globalState = .idle ∨ s.h.globalState = .cardRemoved →
    (fn = 0 → sel = 0 → exec (.regCallback fn sel cb) s =
      .next (State.answered { s with h := { s.h with cbRxComplete := cb } } [0])) ∧
    (fn = 0 → sel = 1 → exec (.regCallback fn sel cb) s =
      .next (State.answered { s with h := { s.h with cbTxComplete := cb } } [0])) ∧
    (fn = 0 → sel = 2 → exec (.regCallback fn sel cb) s =
      .next (State.answered { s with h := { s.h with cbError := cb } } [0])) ∧
    (fn = 0 → sel = 3 → exec (.regCallback fn sel cb) s =
      .next (State.answered { s with h := { s.h with cbTransceiver := cb } } [0])) ∧
    (fn ≠ 0 → sel = 4 → ∃ slots : FnCb, slots.get fn.toNat = cb ∧ (∀ i, i ≠ fn.toNat → slots.get i = s.h.fnCb.get i) ∧
      exec (.regCallback fn sel cb) s = .next (State.answered { s with h := { s.h with fnCb := slots } } [0])) ∧
    (4 < sel.toNat ∨ (sel = 4 ∧ fn = 0) ∨ (sel ≠ 4 ∧ fn ≠ 0) →
      exec (.regCallback fn sel cb) s = .next (s.answered [4]))

/-- `SET_CONFIG` and `NOTIFY_INSERTION` turn a parameter away before identification (R111, R167): the reserved width with no
port action; `HZ = 0`, a divider that does not fit, and a clock that is not ready after the clock read alone. The order
of the checks is the model's reading of R167 (log 23). From `Idle` this is said of every count of enabled function
interrupts, though R405 would have a model refuse a count other than 0 (log 18). -/
def Obligations.ConfigureRejectsParameters : Prop :=
  ∀ (s : State) (hw p e : Bit) (w : BitVec 2) (hz : Word) (i : Instr), s.quiet →
    (i = .setConfig 0 hw p e w hz ∧ (s.h.globalState = .init ∨ s.h.globalState = .idle) ∨
      i = .notifyInsertion 0 hw p e w hz ∧ s.h.globalState = .cardRemoved) →
    (w = 3 → exec i s = .next (State.answered { s with h := { s.h with lastErrorCodes := 0 } } [4])) ∧
    (w ≠ 3 → hz = 0 ∨ 2 ^ s.params.divBits ≤ s.env.clock.toNat / (2 * hz.toNat) →
      exec i s = .next (State.answered { s with
        h := { s.h with lastErrorCodes := 0 }, env := s.env.afterClock, trace := .clockHz :: s.trace } [4])) ∧
    (w ≠ 3 → hz ≠ 0 → s.env.clock = 0 →
      exec i s = .next (State.answered { s with
        h := { s.h with lastErrorCodes := 0x8 }, env := s.env.afterClock, trace := .clockHz :: s.trace } [1]))

/-! ### Identification -/

/-- `SET_CONFIG` from `Init` or `Idle`, and `NOTIFY_INSERTION` from `CardRemoved`, with a card that answers every command
(R131 to R141, R170, R178): identification at the default configuration, then the requested one, then the card's width
register; the end is `Idle` and `Selected` with the requested configuration. `ill` are the "illegal command" answers that
the bounded retry passes over. From `Idle` this is said of every count of enabled function interrupts, though R405 would
have a model refuse a count other than 0 (log 18). A default divider that does not fit is any value of its width
(log 11). -/
def Obligations.ConfigureCompletes : Prop :=
  ∀ (s : State) (i : Instr) (hw p e : Bit) (w : BitVec 2) (hz k : Word) (ks : List Word)
    (r0 r5 r3 r7 r52 : Word) (mid ill rest : List CmdAnswer) (acts : List PortAction) (d : Word) (b : Byte),
    s.quiet → s.noCallbacks →
    (i = .setConfig 0 hw p e w hz ∧ (s.h.globalState = .init ∨ s.h.globalState = .idle) ∨
      i = .notifyInsertion 0 hw p e w hz ∧ s.h.globalState = .cardRemoved) →
    w ≠ 3 → hz ≠ 0 → k ≠ 0 → k.toNat / (2 * hz.toNat) < 2 ^ s.params.divBits →
    d = BitVec.ofNat 32 (k.toNat / (2 * hz.toNat)) → b = (if w = 0 then 0 else if w = 1 then 2 else 3) →
    s.env.clockScript = k :: ks →
    s.env.cmdScript = ⟨0, r0⟩ :: ⟨0, r5⟩ :: (mid ++ ill ++ ⟨0, r3⟩ :: ⟨0, r7⟩ :: ⟨0, r52⟩ :: rest) →
    identMiddle s r5 mid acts → (∀ a ∈ ill, a.err = 3) → ill.length < s.params.rcaRetryMax →
    ∃ (dd : Word) (ms n : Nat),
      (k.toNat / 800000 < 2 ^ s.params.divBits → dd = BitVec.ofNat 32 (k.toNat / 800000)) ∧
      dd.toNat < 2 ^ s.params.divBits ∧
      (∀ f, f = (if k.toNat / 800000 = 0 then k.toNat / 2 else k.toNat / (2 * (k.toNat / 800000))) → f ≠ 0 →
        s.params.powerupSettleCycles * 1000 ≤ ms * f) ∧
      exec i s = .next (State.answered { s with
        h := { s.h with
          lastErrorCodes := 0, globalState := .idle, identState := .selected, cfg := ⟨w, e, p, hw, d, hz⟩ }
        bus := { s.bus with powered := true, width := w, edge := e, psave := p, hwfc := hw, div := d }
        env := { s.env with
          clockScript := ks, cmdScript := rest, tickOwed := s.env.tickOwed + ms + ill.length, drawn := n }
        trace := .cmd 52 (enc52 1 0 0 0x7 b) :: .busConfig w e p hw d ::
          .cmd 7 (r3.extractLsb' 16 16 ++ (0 : BitVec 16)) :: .cmd 3 0 ::
          (addressRetries ill.length ++ acts ++ .cmd 5 0 :: .cmd 0 0 ::
            .delayCycles s.params.powerupSettleCycles :: .busPower true :: .busConfig 0 0 0 0 dd :: .clockHz ::
            s.trace) } [0])

/-- A card that answers every relative-address request with "illegal command" makes identification fail after exactly
`RCA_RETRY_MAX` requests and one wait less, with nothing sent after them (R139, R142, R145). From `Idle` this is said of
every count of enabled function interrupts, though R405 would have a model refuse a count other than 0 (log 18). A
default divider that does not fit is any value of its width (log 11). -/
def Obligations.AddressRetryIsBounded : Prop :=
  ∀ (s : State) (i : Instr) (hw p e : Bit) (w : BitVec 2) (hz k : Word) (ks : List Word) (r0 r5 : Word)
    (mid ill rest : List CmdAnswer) (acts : List PortAction),
    s.quiet → s.noCallbacks →
    (i = .setConfig 0 hw p e w hz ∧ (s.h.globalState = .init ∨ s.h.globalState = .idle) ∨
      i = .notifyInsertion 0 hw p e w hz ∧ s.h.globalState = .cardRemoved) →
    w ≠ 3 → hz ≠ 0 → k ≠ 0 → k.toNat / (2 * hz.toNat) < 2 ^ s.params.divBits →
    s.env.clockScript = k :: ks →
    s.env.cmdScript = ⟨0, r0⟩ :: ⟨0, r5⟩ :: (mid ++ ill ++ rest) →
    identMiddle s r5 mid acts → (∀ a ∈ ill, a.err = 3) → ill.length = s.params.rcaRetryMax → 1 ≤ s.params.rcaRetryMax →
    ∃ (dd : Word) (ms n : Nat),
      (k.toNat / 800000 < 2 ^ s.params.divBits → dd = BitVec.ofNat 32 (k.toNat / 800000)) ∧
      dd.toNat < 2 ^ s.params.divBits ∧
      (∀ f, f = (if k.toNat / 800000 = 0 then k.toNat / 2 else k.toNat / (2 * (k.toNat / 800000))) → f ≠ 0 →
        s.params.powerupSettleCycles * 1000 ≤ ms * f) ∧
      exec i s = .next (State.answered { s with
        h := { s.h with
          lastErrorCodes := 0x4, globalState := .cardRemoved, identState := .powerOff, cfg := ⟨0, 0, 0, 0, dd, 400000⟩ }
        bus := { s.bus with powered := true, width := 0, edge := 0, psave := 0, hwfc := 0, div := dd }
        env := { s.env with
          clockScript := ks, cmdScript := rest, tickOwed := s.env.tickOwed + ms + (s.params.rcaRetryMax - 1), drawn := n }
        trace := .cmd 3 0 :: (addressRetries (s.params.rcaRetryMax - 1) ++ acts ++ .cmd 5 0 :: .cmd 0 0 ::
            .delayCycles s.params.powerupSettleCycles :: .busPower true :: .busConfig 0 0 0 0 dd :: .clockHz ::
            s.trace) } [1])

/-- Whatever the card answers, `SET_CONFIG` and `NOTIFY_INSERTION` with good parameters end, and in one of two ways: `ST_OK`,
`Idle`, the card selected, no error bit; or `ST_ERROR`, `CardRemoved`, the default configuration, an error bit set. Memory,
callbacks, block size and timeout are untouched (R142, R143, R170). From `Idle` this is said of every count of enabled
function interrupts, though R405 would have a model refuse a count other than 0 (log 18). -/
def Obligations.ConfigureEndsIdleOrRemoved : Prop :=
  ∀ (s : State) (i : Instr) (hw p e : Bit) (w : BitVec 2) (hz : Word), s.quiet → s.noReentry →
    (i = .setConfig 0 hw p e w hz ∧ (s.h.globalState = .init ∨ s.h.globalState = .idle) ∨
      i = .notifyInsertion 0 hw p e w hz ∧ s.h.globalState = .cardRemoved) →
    s.h.context = 0 → w ≠ 3 → hz ≠ 0 → s.env.clock ≠ 0 → s.env.clock.toNat / (2 * hz.toNat) < 2 ^ s.params.divBits →
    ∃ t, exec i s = .next t ∧
      (t.response = [0] ∧ t.h.globalState = .idle ∧ t.h.identState = .selected ∧ t.h.lastErrorCodes = 0 ∧
          t.h.cfg = ⟨w, e, p, hw, BitVec.ofNat 32 (s.env.clock.toNat / (2 * hz.toNat)), hz⟩ ∨
        t.response = [1] ∧ t.h.globalState = .cardRemoved ∧ t.h.identState = .powerOff ∧ t.h.lastErrorCodes ≠ 0 ∧
          ∃ d, t.h.cfg = ⟨0, 0, 0, 0, d, 400000⟩) ∧
      t.h.context = 0 ∧ t.mem = s.mem ∧ t.h.fnCb = s.h.fnCb ∧ t.h.cbRxComplete = s.h.cbRxComplete ∧
      t.h.cbTxComplete = s.h.cbTxComplete ∧ t.h.cbError = s.h.cbError ∧ t.h.cbTransceiver = s.h.cbTransceiver ∧
      t.h.blockSize = s.h.blockSize ∧ t.h.dataTimeoutCycles = s.h.dataTimeoutCycles ∧ t.h.instanceId = s.h.instanceId

/-! ### Direct transfers -/

/-- `READ_DIRECT` and `WRITE_DIRECT` from `Idle` (R201 to R204): one command, sent as given for every function and address;
the read answers the byte; an error is accumulated and answered; nothing else changes. -/
def Obligations.DirectTransferResult : Prop :=
  ∀ (s : State) (raw : Bit) (fn : Fn) (addr : RegAddr) (data : Byte), s.quiet → s.h.globalState = .idle →
    (s.env.cmdAnswer.err = 0 →
      exec (.readDirect raw fn addr) s = .next (State.answered { s with
        h := { s.h with lastErrorCodes := 0 }, env := s.env.afterCmd
        trace := .cmd 52 (enc52 0 fn raw addr 0) :: s.trace }
        [0, (0 : BitVec 24) ++ s.env.cmdAnswer.resp.extractLsb' 0 8]) ∧
      exec (.writeDirect raw fn addr data) s = .next (State.answered { s with
        h := { s.h with lastErrorCodes := 0 }, env := s.env.afterCmd
        trace := .cmd 52 (enc52 1 fn raw addr data) :: s.trace } [0])) ∧
    (s.env.cmdAnswer.err ≠ 0 →
      exec (.readDirect raw fn addr) s = .next (State.answered { s with
        h := { s.h with lastErrorCodes := errmap s.env.cmdAnswer.err }, env := s.env.afterCmd
        trace := .cmd 52 (enc52 0 fn raw addr 0) :: s.trace } [1]) ∧
      exec (.writeDirect raw fn addr data) s = .next (State.answered { s with
        h := { s.h with lastErrorCodes := errmap s.env.cmdAnswer.err }, env := s.env.afterCmd
        trace := .cmd 52 (enc52 1 fn raw addr data) :: s.trace } [1]))

/-- The two data command words, field by field (R105, R106), and the spec's worked values (R107). -/
def Obligations.CommandWordLayout : Prop :=
  (∀ (rw raw : Bit) (fn : Fn) (addr : RegAddr) (data : Byte),
    (enc52 rw fn raw addr data).toNat =
      rw.toNat * 2 ^ 31 + fn.toNat * 2 ^ 28 + raw.toNat * 2 ^ 27 + addr.toNat * 2 ^ 9 + data.toNat) ∧
  (∀ (rw bm op : Bit) (fn : Fn) (addr : RegAddr) (count : BitVec 9),
    (enc53 rw fn bm op addr count).toNat =
      rw.toNat * 2 ^ 31 + fn.toNat * 2 ^ 28 + bm.toNat * 2 ^ 27 + op.toNat * 2 ^ 26 + addr.toNat * 2 ^ 9 +
        count.toNat) ∧
  enc52 1 0 0 0x00007 0x02 = 0x80000E02 ∧ enc52 0 0 0 0x00005 0 = 0x00000A00 ∧
  enc53 0 1 0 1 0x01000 40 = 0x14200028 ∧ enc53 1 2 1 1 0x00000 511 = 0xAC0001FF

/-! ### Fragmentation and packing -/

/-- The number of whole blocks (R222): 0 for a block size that is not a power of two, else the quotient, with its bounds. One
phase (R223, R225): it takes at least one byte and no more than are left; a block phase at most `WINDOW_BLOCKS` whole
blocks, its count field the number of blocks; a byte phase at most `WINDOW_BYTES` bytes, its count field the length in 9
bits. -/
def Obligations.FragmentationBounds : Prop :=
  (∀ size bs : Word, ¬(∃ k, bs.toNat = 2 ^ k) → blocks size bs = 0) ∧
  (∀ size bs : Word, (∃ k, bs.toNat = 2 ^ k) →
    blocks size bs * bs.toNat ≤ size.toNat ∧ size.toNat < (blocks size bs + 1) * bs.toNat) ∧
  ∀ (p : Params) (bm : Bit) (rem bs : Word) (pl : Phase), p.ok = true → rem ≠ 0 → pl = phasePlan p bm rem bs →
    1 ≤ pl.len ∧ pl.len ≤ rem.toNat ∧
    (pl.mode = .block ↔ bm = 1 ∧ blocks rem bs ≠ 0) ∧
    (pl.mode = .block → pl.len = pl.count.toNat * bs.toNat ∧ pl.bsz = bs.toNat ∧ 1 ≤ pl.count.toNat ∧
      pl.count.toNat = min (blocks rem bs) p.windowBlocks) ∧
    (pl.mode = .byte → pl.len = min rem.toNat p.windowBytes ∧ pl.bsz = pl.len ∧ pl.count.toNat = pl.len % 512)

/-- The phases of a request tile it: their lengths sum to its size (R229, R256); a byte-mode request of three windows and 17
bytes has exactly four (R228). -/
def Obligations.PhasesTile : Prop :=
  ∀ (p : Params) (bm : Bit) (bs size : Word), p.ok = true →
    ((phaseList p bm bs size.toNat size).map Phase.len).sum = size.toNat ∧
    (∀ pl ∈ phaseList p bm bs size.toNat size, 1 ≤ pl.len ∧ (bm = 0 → pl.mode = .byte)) ∧
    (bm = 0 → 17 ≤ p.windowBytes → size.toNat = 3 * p.windowBytes + 17 →
      (phaseList p bm bs size.toNat size).map Phase.len = [p.windowBytes, p.windowBytes, p.windowBytes, 17])

/-- Bytes packed into FIFO words and unpacked again are the same bytes, whatever their number (R66 to R68, R244). -/
def Obligations.FifoPackingRoundTrip : Prop :=
  (∀ w : Word, packBytes (wordBytes w) = w) ∧
  (∀ (m : Memory) (buf : Word) (n : Nat),
    ((List.range ((n + 3) / 4)).flatMap fun j =>
      wordBytes (packBytes (m.readBytes (buf + BitVec.ofNat 32 (4 * j)) (min 4 (n - 4 * j))))).take n =
    m.readBytes buf n)

/-- The two translations into error bits: of a command's protocol error (R324), and of the error flags of a sample, each its
own bit (R236). -/
def Obligations.ErrorTranslation : Prop :=
  errmap 0 = 0 ∧ errmap 1 = 0x01 ∧ errmap 2 = 0x02 ∧ errmap 3 = 0x04 ∧ (∀ e : Word, 3 < e.toNat → errmap e = 0x08) ∧
  (∀ f : Word, (errorsOfFlags f).getLsbD 4 = f.getLsbD 1 ∧ (errorsOfFlags f).getLsbD 5 = f.getLsbD 3 ∧
    (errorsOfFlags f).getLsbD 6 = f.getLsbD 5 ∧ (errorsOfFlags f).getLsbD 7 = f.getLsbD 4 ∧
    errorsOfFlags f &&& 0xFFFFFF0F = 0)

/-! ### Extended transfers: operand checks and polling -/

/-- The operand checks of the four extended operations (R224, R71, R231): `ST_INVALID_PARAM`, the error mask cleared, nothing
else and no port action. -/
def Obligations.ExtendedOperandChecks : Prop :=
  ∀ (s : State) (bm op : Bit) (fn : Fn) (addr : RegAddr) (buf size tmo : Word) (t : State), s.h.globalState = .idle →
    t = State.answered { s with h := { s.h with lastErrorCodes := 0 } } [4] →
    (size = 0 ∨ (bm = 1 ∧ blocks size s.h.blockSize = 0) ∨ 2 ^ 32 < buf.toNat + size.toNat →
      exec (.readExt bm op fn addr buf size tmo) s = .next t ∧
      exec (.writeExt bm op fn addr buf size tmo) s = .next t ∧
      exec (.readExtDma bm op fn addr buf size) s = .next t ∧
      exec (.writeExtDma bm op fn addr buf size) s = .next t) ∧
    (buf.toNat % 4 ≠ 0 →
      exec (.readExtDma bm op fn addr buf size) s = .next t ∧
      exec (.writeExtDma bm op fn addr buf size) s = .next t) ∧
    (s.params.pollOversizeRefuse = true → (phasePlan s.params bm size s.h.blockSize).len ≠ size.toNat →
      exec (.readExt bm op fn addr buf size tmo) s = .next t ∧
      exec (.writeExt bm op fn addr buf size tmo) s = .next t)

/-- `READ_EXT` of any size one phase holds, with a data path whose FIFO is always ready (R232, R239, R242): exactly
`ceil(SIZE / 4)` FIFO words are read and their first `SIZE` bytes stored from `BUF` on; nothing else of memory changes. -/
def Obligations.ReadExtMovesBytes : Prop :=
  ∀ (s : State) (bm op : Bit) (fn : Fn) (addr : RegAddr) (buf size tmo : Word) (pl : Phase) (n : Nat)
    (frest words wrest : List Word) (d : BitVec 31) (ds trest : List (BitVec 31)),
    s.quiet → s.h.globalState = .idle → s.extOk bm buf size → pl = phasePlan s.params bm size s.h.blockSize →
    pl.len = size.toNat → s.env.cmdAnswer.err = 0 → s.env.flags &&& 0x13A = 0 →
    n = size.toNat / 32 + (size.toNat % 32 + 3) / 4 →
    s.env.flagScript = List.replicate n 0x8000 ++ 0x100 :: frest →
    s.env.tickScript = d :: (ds ++ trest) → ds.length = n → tickSum ds < tmo.toNat → n < s.env.waitBudget →
    s.env.fifoRx = words ++ wrest → words.length = (size.toNat + 3) / 4 →
    ∃ (e : Env) (tr : List PortAction),
      exec (.readExt bm op fn addr buf size tmo) s = .next (State.answered { s with
        h := { s.h with lastErrorCodes := 0, context := 0 }
        mem := s.mem.writeBytes buf ((words.flatMap wordBytes).take size.toNat)
        dpath := ⟨s.h.dataTimeoutCycles, size, BitVec.ofNat 32 pl.bsz, .rd, pl.mode, false⟩
        env := e
        trace := .dpathDisable :: .flagClear 0x13A :: (tr ++ .cmd 53 (enc53 0 fn bm op addr pl.count) ::
          .dpathEnable :: .dpathConfig s.h.dataTimeoutCycles size (BitVec.ofNat 32 pl.bsz) .rd pl.mode ::
          s.trace) } [0]) ∧
      e.fifoRx = wrest ∧ e.fifoTx = s.env.fifoTx ∧ e.flags = s.env.flags &&& 0x00400000 ∧ e.flagScript = frest ∧
      e.tickScript = trest ∧ e.cmdScript = s.env.afterCmd.cmdScript ∧
      tr.count .fifoRead = words.length ∧ ∀ a ∈ tr, a = .fifoRead ∨ a = .flags ∨ a = .tick

/-- `WRITE_EXT` of any size one phase holds, with a data path whose FIFO always takes words (R233, R239, R243, R362): the
bytes of the buffer are given to the FIFO in order, packed into `ceil(SIZE / 4)` words with the absent bytes 0; memory does
not change. -/
def Obligations.WriteExtMovesBytes : Prop :=
  ∀ (s : State) (bm op : Bit) (fn : Fn) (addr : RegAddr) (buf size tmo : Word) (pl : Phase) (n : Nat)
    (frest words : List Word) (full : List Bool) (d : BitVec 31) (ds trest : List (BitVec 31)),
    s.quiet → s.h.globalState = .idle → s.extOk bm buf size → pl = phasePlan s.params bm size s.h.blockSize →
    pl.len = size.toNat → s.env.cmdAnswer.err = 0 → s.env.flags &&& 0x13A = 0 →
    n = size.toNat / 32 + (size.toNat % 32 + 3) / 4 →
    s.env.flagScript = List.replicate n 0x4000 ++ 0x100 :: frest →
    s.env.tickScript = d :: (ds ++ trest) → ds.length = n → tickSum ds < tmo.toNat → n < s.env.waitBudget →
    words = (List.range ((size.toNat + 3) / 4)).map (fun j =>
      packBytes (s.mem.readBytes (buf + BitVec.ofNat 32 (4 * j)) (min 4 (size.toNat - 4 * j)))) →
    s.env.txFullScript = List.replicate words.length false ++ full →
    ∃ (e : Env) (tr : List PortAction),
      exec (.writeExt bm op fn addr buf size tmo) s = .next (State.answered { s with
        h := { s.h with lastErrorCodes := 0, context := 0 }
        dpath := ⟨s.h.dataTimeoutCycles, size, BitVec.ofNat 32 pl.bsz, .wr, pl.mode, false⟩
        env := e
        trace := .dpathDisable :: .flagClear 0x13A :: (tr ++ .cmd 53 (enc53 1 fn bm op addr pl.count) ::
          .dpathEnable :: .dpathConfig s.h.dataTimeoutCycles size (BitVec.ofNat 32 pl.bsz) .wr pl.mode ::
          s.trace) } [0]) ∧
      e.fifoTx = s.env.fifoTx ++ words ∧ e.txFullScript = full ∧ e.fifoRx = s.env.fifoRx ∧ e.flags = s.env.flags &&& 0x00400000 ∧
      e.flagScript = frest ∧ e.tickScript = trest ∧ e.cmdScript = s.env.afterCmd.cmdScript ∧
      ∀ a ∈ tr, (∃ w, a = .fifoWrite w) ∨ a = .flags ∨ a = .tick

/-- However the data path paces the FIFO, `ST_OK` means that every byte has been moved, in order, through exactly
`ceil(SIZE / 4)` FIFO words (R232 to R235, R238, R240). Of the words of a write, those pushed on a full FIFO are lost, which
R362 says of a data path whose flags are not truthful, and no other. -/
def Obligations.PollOkMeansEveryByteMoved : Prop :=
  ∀ (s t : State) (bm op : Bit) (fn : Fn) (addr : RegAddr) (buf size tmo : Word) (pl : Phase),
    s.quiet → s.h.globalState = .idle → s.extOk bm buf size → pl = phasePlan s.params bm size s.h.blockSize →
    pl.len = size.toNat → t.response = [0] →
    (∀ words wrest : List Word, s.env.fifoRx = words ++ wrest → words.length = (size.toNat + 3) / 4 →
      exec (.readExt bm op fn addr buf size tmo) s = .next t →
      t.mem = s.mem.writeBytes buf ((words.flatMap wordBytes).take size.toNat) ∧ t.env.fifoRx = wrest) ∧
    (∀ (lost full : List Bool) (words : List Word), s.env.txFullScript = lost ++ full →
      lost.length = (size.toNat + 3) / 4 →
      words = (List.range ((size.toNat + 3) / 4)).map (fun j =>
        packBytes (s.mem.readBytes (buf + BitVec.ofNat 32 (4 * j)) (min 4 (size.toNat - 4 * j)))) →
      exec (.writeExt bm op fn addr buf size tmo) s = .next t →
      t.mem = s.mem ∧ t.env.txFullScript = full ∧
      t.env.fifoTx = s.env.fifoTx ++ ((words.zip lost).filter fun p => !p.2).map Prod.fst ∧
      ((∀ b ∈ lost, b = false) → t.env.fifoTx = s.env.fifoTx ++ words))

/-- However a polling transfer ends, it ends in `Idle` with the context 0, the data path disabled, the static flags clear and
no interrupt source enabled that was not; the status says which end it was: `ST_OK` with no error bit, `ST_TIMEOUT` with
`ERR_DATA_TIMEOUT` alone, `ST_ERROR` with some bit (R236, R237, R239, R241). -/
def Obligations.PollEndsIdle : Prop :=
  ∀ (s t : State) (i : Instr) (bm op : Bit) (fn : Fn) (addr : RegAddr) (buf size tmo : Word),
    s.quiet → s.h.globalState = .idle → s.extOk bm buf size →
    (s.params.pollOversizeRefuse = true → (phasePlan s.params bm size s.h.blockSize).len = size.toNat) →
    i = .readExt bm op fn addr buf size tmo ∨ i = .writeExt bm op fn addr buf size tmo → exec i s = .next t →
    (∃ codes, t.h = { s.h with lastErrorCodes := codes, context := 0 } ∧
      (t.response = [0] ∧ codes = 0 ∨ t.response = [3] ∧ codes = 0x20 ∨ t.response = [1] ∧ codes ≠ 0)) ∧
    t.dpath.enabled = false ∧ t.env.flags &&& 0x13A = 0 ∧ t.dma = s.dma ∧ t.bus = s.bus ∧ t.requests = s.requests ∧
    (∀ a, a < buf.toNat ∨ buf.toNat + size.toNat ≤ a → t.mem.read a = s.mem.read a)

/-- A polling transfer whose command fails moves nothing and cleans up (R242, R243, R324); the buffer of the failed read may
hold anything, and no other byte changes (R81). -/
def Obligations.PollCommandError : Prop :=
  ∀ (s : State) (bm op : Bit) (fn : Fn) (addr : RegAddr) (buf size tmo : Word) (pl : Phase),
    s.quiet → s.h.globalState = .idle → s.extOk bm buf size → pl = phasePlan s.params bm size s.h.blockSize →
    (s.params.pollOversizeRefuse = true → pl.len = size.toNat) → s.env.cmdAnswer.err ≠ 0 →
    (exec (.writeExt bm op fn addr buf size tmo) s = .next (State.answered { s with
      h := { s.h with lastErrorCodes := errmap s.env.cmdAnswer.err, context := 0 }
      dpath := ⟨s.h.dataTimeoutCycles, BitVec.ofNat 32 pl.len, BitVec.ofNat 32 pl.bsz, .wr, pl.mode, false⟩
      env := { s.env.afterCmd with flags := flagsCleared s.env.flags 0x13A }
      trace := .dpathDisable :: .flagClear 0x13A :: .cmd 53 (enc53 1 fn bm op addr pl.count) :: .dpathEnable ::
        .dpathConfig s.h.dataTimeoutCycles (BitVec.ofNat 32 pl.len) (BitVec.ofNat 32 pl.bsz) .wr pl.mode ::
        s.trace } [1])) ∧
    ∃ (m : Memory) (k : Nat),
      exec (.readExt bm op fn addr buf size tmo) s = .next (State.answered { s with
        h := { s.h with lastErrorCodes := errmap s.env.cmdAnswer.err, context := 0 }
        mem := m
        dpath := ⟨s.h.dataTimeoutCycles, BitVec.ofNat 32 pl.len, BitVec.ofNat 32 pl.bsz, .rd, pl.mode, false⟩
        env := { s.env.afterCmd with flags := flagsCleared s.env.flags 0x13A, drawn := k }
        trace := .dpathDisable :: .flagClear 0x13A :: .cmd 53 (enc53 0 fn bm op addr pl.count) :: .dpathEnable ::
          .dpathConfig s.h.dataTimeoutCycles (BitVec.ofNat 32 pl.len) (BitVec.ofNat 32 pl.bsz) .rd pl.mode ::
          s.trace } [1]) ∧
      (∀ a, a < buf.toNat ∨ buf.toNat + pl.len ≤ a → m.read a = s.mem.read a)

/-- A terminal flag in the first sample of the pump ends it at once (R236, R238): an error flag with `ST_ERROR` and every bit
the flags stand for, whatever data-complete says; data-complete alone, with the whole phase unmoved, is the fault
`PumpShort`. -/
def Obligations.PollStopsOnFlags : Prop :=
  ∀ (s : State) (i : Instr) (bm op : Bit) (fn : Fn) (addr : RegAddr) (buf size tmo sample : Word),
    s.quiet → s.h.globalState = .idle → s.extOk bm buf size →
    (s.params.pollOversizeRefuse = true → (phasePlan s.params bm size s.h.blockSize).len = size.toNat) →
    i = .readExt bm op fn addr buf size tmo ∨ i = .writeExt bm op fn addr buf size tmo →
    s.params.ok = true → s.env.cmdAnswer.err = 0 → s.env.waitBudget ≠ 0 → s.env.cmdScript ≠ [] →
    s.env.tickScript ≠ [] → sample = flagSample s.env.flags s.env.raised s.bus.sdioOp →
    (sample &&& 0x3A ≠ 0 → ∃ t, exec i s = .next t ∧ t.response = [1] ∧
      t.h = { s.h with lastErrorCodes := errorsOfFlags sample, context := 0 } ∧ t.env.fifoRx = s.env.fifoRx ∧
      t.env.fifoTx = s.env.fifoTx) ∧
    (sample &&& 0x3A = 0 → sample &&& 0x100 ≠ 0 → exec i s = .fault .pumpShort)

/-- A card that never gives a terminal flag makes a polling transfer end with `ST_TIMEOUT` at the first iteration at which
`tmo` milliseconds have passed, back in `Idle` with `ERR_DATA_TIMEOUT` (R237, R239). -/
def Obligations.PollTimesOut : Prop :=
  ∀ (s : State) (i : Instr) (bm op : Bit) (fn : Fn) (addr : RegAddr) (buf size tmo : Word)
    (fs frest : List Word) (d last : BitVec 31) (ds trest : List (BitVec 31)),
    s.quiet → s.h.globalState = .idle → s.extOk bm buf size →
    (s.params.pollOversizeRefuse = true → (phasePlan s.params bm size s.h.blockSize).len = size.toNat) →
    i = .readExt bm op fn addr buf size tmo ∨ i = .writeExt bm op fn addr buf size tmo →
    s.env.cmdAnswer.err = 0 → s.env.flags &&& 0x13A = 0 →
    s.env.flagScript = fs ++ frest → (∀ f ∈ fs, f &&& 0x13A = 0) →
    s.env.tickScript = d :: (ds ++ last :: trest) → ds.length + 1 = fs.length → fs.length ≤ s.env.waitBudget →
    (tickSum ds < tmo.toNat ∨ ds = []) → tmo.toNat ≤ tickSum ds + last.toNat → tickSum ds + last.toNat < 2 ^ 32 →
    ∃ t, exec i s = .next t ∧ t.response = [3] ∧ t.h = { s.h with lastErrorCodes := 0x20, context := 0 } ∧
      t.dpath.enabled = false ∧ t.env.flagScript = frest ∧ t.env.tickScript = trest ∧
      (∀ a, a < buf.toNat ∨ buf.toNat + size.toNat ≤ a → t.mem.read a = s.mem.read a)

/-! ### DMA transfers -/

/-- `READ_EXT_DMA` and `WRITE_EXT_DMA` from `Idle` (R250 to R254): the first phase is planned, programmed and commanded; with
the command accepted the terminal sources are enabled and the handle is left `Active` with the continuation registers of
R252; with a command error the request is dropped and answered `ST_ERROR` with no event, and of memory only the buffer of
a read may have changed. That no byte of a read has landed at its `ST_OK` is the model's choice of the moment at which a
phase's bytes come into memory (log 17). -/
def Obligations.DmaFirstPhase : Prop :=
  ∀ (s : State) (i : Instr) (rw : Bit) (ctx : BitVec 4) (dir : Dir) (bm op : Bit) (fn : Fn) (addr next : RegAddr)
    (buf size len bsz : Word) (pl : Phase) (acts : List PortAction),
    s.quiet → s.h.globalState = .idle → s.extOk bm buf size → buf.toNat % 4 = 0 →
    (i = .readExtDma bm op fn addr buf size ∧ rw = 0 ∧ ctx = 0b1101 ∧ dir = .rd ∨
      i = .writeExtDma bm op fn addr buf size ∧ rw = 1 ∧ ctx = 0b1110 ∧ dir = .wr) →
    pl = phasePlan s.params bm size s.h.blockSize → len = BitVec.ofNat 32 pl.len → bsz = BitVec.ofNat 32 pl.bsz →
    next = (if op = 1 then addr + BitVec.ofNat 17 pl.len else addr) →
    acts = .cmd 53 (enc53 rw fn (if pl.mode = .block then 1 else 0) op addr pl.count) :: .dpathEnable ::
      .dmaProgram buf len :: .dpathConfig s.h.dataTimeoutCycles len bsz dir pl.mode :: s.trace →
    (s.env.cmdAnswer.err = 0 → exec i s = .next (State.answered { s with
      h := { s.h with
        lastErrorCodes := 0, globalState := .active, context := ctx, contDesc := ⟨fn, bm, op⟩, xferSize := len
        pXferBuff := buf, remainingData := size - len, nextDataAddr := buf + len, nextRegAddr := next
        irqMask := s.h.irqMask ||| 0x13A }
      dpath := ⟨s.h.dataTimeoutCycles, len, bsz, dir, pl.mode, true⟩
      dma := some ⟨buf, len⟩
      env := s.env.afterCmd
      trace := .irqEnable 0x13A :: acts } [0])) ∧
    (s.env.cmdAnswer.err ≠ 0 → s.params.ok = true → ∃ (m : Memory) (bytes : List Byte) (k : Nat),
      exec i s = .next (State.answered { s with
        h := { s.h with
          lastErrorCodes := errmap s.env.cmdAnswer.err, context := 0, contDesc := ⟨fn, bm, op⟩, xferSize := len
          pXferBuff := buf, remainingData := 0, nextDataAddr := buf + len, nextRegAddr := next
          irqMask := s.h.irqMask &&& ~~~0x13A }
        mem := m
        dpath := ⟨s.h.dataTimeoutCycles, len, bsz, dir, pl.mode, false⟩
        dma := none
        env := { s.env.afterCmd with flags := flagsCleared s.env.flags 0x13A, dmaScript := bytes, drawn := k }
        trace := .flagClear 0x13A :: .dmaTeardown :: .dpathDisable :: .irqDisable 0x13A :: acts } [1]) ∧
      (rw = 1 → m = s.mem ∧ bytes = s.env.dmaScript ∧ k = s.env.afterCmd.drawn) ∧
      ∀ a, a < buf.toNat ∨ buf.toNat + size.toNat ≤ a → m.read a = s.mem.read a)

/-! ### The interrupt handler -/

/-- `IRQ_HANDLER` in `Reset`, and an entry with no enabled source pending, changes nothing but the sample itself (R340). -/
def Obligations.HandlerWithNothingPending : Prop :=
  ∀ s : State,
    (s.h.globalState = .reset → exec .irqHandler s = .next (s.answered [0])) ∧
    (s.h.globalState ≠ .reset → s.snapshot &&& 0x0040013A = 0 →
      exec .irqHandler s = .next (State.answered
        { s with env := s.env.afterSample s.bus.sdioOp, trace := .flags :: s.trace } [0]))

/-- With exactly one function's interrupt enabled a card interrupt calls that function with no register read; with more than
one the pending byte is read exactly once and every set bit 1 to 7 gives its event, lowest first; a failed read
accumulates its error and gives no event (R341). -/
def Obligations.DispatchCallsFunctions : Prop :=
  (∀ (s : State) (fn : Fn), s.h.globalState ≠ .reset → s.snapshot &&& 0x0040013A = 0x00400000 → s.noCallbacks →
    fn ≠ 0 → s.h.fnIrqCount = 1 → s.h.fnIrqMask = (1 : Byte) <<< fn.toNat →
    exec .irqHandler s = .next (State.answered { s with
      env := s.consumed 0x00400000
      trace := .emit ⟨.fnIrq fn.toNat, BitVec.ofNat 32 fn.toNat, s.h.fnCb.get fn.toNat⟩ :: .flagClear 0x00400000 ::
        .flags :: s.trace } [0])) ∧
  ∀ (s : State) (e : Env), s.h.globalState ≠ .reset → s.snapshot &&& 0x0040013A = 0x00400000 → s.noCallbacks →
    2 ≤ s.h.fnIrqCount.toNat → e = s.consumed 0x00400000 →
    (e.cmdAnswer.err = 0 → exec .irqHandler s = .next (State.answered { s with
      env := e.afterCmd
      trace := (([1, 2, 3, 4, 5, 6, 7].filter fun k => e.cmdAnswer.resp.getLsbD k).map fun k =>
          PortAction.emit ⟨.fnIrq k, BitVec.ofNat 32 k, s.h.fnCb.get k⟩).reverse ++
        .cmd 52 0x00000A00 :: .flagClear 0x00400000 :: .flags :: s.trace } [0])) ∧
    (e.cmdAnswer.err ≠ 0 → exec .irqHandler s = .next (State.answered { s with
      h := { s.h with lastErrorCodes := s.h.lastErrorCodes ||| errmap e.cmdAnswer.err }
      env := e.afterCmd
      trace := .cmd 52 0x00000A00 :: .flagClear 0x00400000 :: .flags :: s.trace } [0]))

/-- Data-complete of the last phase of a DMA request (R255, R342): the interrupts and the data path are disabled, the engine
is torn down, the handle returns to `Idle` and then the completion event of the direction is emitted. The bytes the engine
wrote are in the buffer of a read; a write changes no memory. -/
def Obligations.DmaLastPhaseCompletes : Prop :=
  ∀ (s : State) (acts : List PortAction), s.h.globalState = .active →
    s.snapshot &&& 0x0040013A = 0x100 → s.noCallbacks → s.h.remainingData = 0 →
    acts = .dmaTeardown :: .dpathDisable :: .irqDisable 0x13A :: .flagClear 0x100 :: .flags :: s.trace →
    (∀ bytes rest : List Byte, s.h.context = 0b1101 → s.env.dmaScript = bytes ++ rest →
      bytes.length = s.h.xferSize.toNat → exec .irqHandler s = .next (State.answered { s with
      h := { s.h with globalState := .idle, context := 0, irqMask := s.h.irqMask &&& ~~~0x13A }
      mem := s.mem.writeBytes s.h.pXferBuff bytes
      dpath := { s.dpath with enabled := false }
      dma := none
      env := { s.consumed 0x100 with dmaScript := rest }
      trace := .emit ⟨.rxComplete, 0, s.h.cbRxComplete⟩ :: acts } [0])) ∧
    (s.h.context = 0b1110 → exec .irqHandler s = .next (State.answered { s with
      h := { s.h with globalState := .idle, context := 0, irqMask := s.h.irqMask &&& ~~~0x13A }
      dpath := { s.dpath with enabled := false }
      dma := none
      env := s.consumed 0x100
      trace := .emit ⟨.txComplete, 0, s.h.cbTxComplete⟩ :: acts } [0]))

/-- Data-complete of a phase that is not the last (R252, R253, R255): the next phase is programmed from the continuation
registers and commanded, the handle stays `Active`, and no event is emitted. That of a read no byte of the next phase has
landed yet is the model's choice of the moment at which a phase's bytes come into memory (log 17). -/
def Obligations.DmaContinues : Prop :=
  ∀ (s : State) (rw : Bit) (dir : Dir) (len bsz : Word) (next : RegAddr) (pl : Phase), s.h.globalState = .active →
    s.snapshot &&& 0x0040013A = 0x100 → s.h.remainingData ≠ 0 →
    (s.h.context = 0b1101 ∧ rw = 0 ∧ dir = .rd ∨ s.h.context = 0b1110 ∧ rw = 1 ∧ dir = .wr) →
    s.env.cmdScript ≠ [] → s.env.cmdAnswer.err = 0 →
    pl = phasePlan s.params s.h.contDesc.blockMode s.h.remainingData s.h.blockSize →
    len = BitVec.ofNat 32 pl.len → bsz = BitVec.ofNat 32 pl.bsz →
    next = (if s.h.contDesc.opCode = 1 then s.h.nextRegAddr + BitVec.ofNat 17 pl.len else s.h.nextRegAddr) →
    ∃ (m : Memory) (bytes : List Byte) (k : Nat),
      exec .irqHandler s = .next (State.answered { s with
        h := { s.h with
          xferSize := len, pXferBuff := s.h.nextDataAddr, remainingData := s.h.remainingData - len
          nextDataAddr := s.h.nextDataAddr + len, nextRegAddr := next
          irqMask := s.h.irqMask &&& ~~~0x13A ||| 0x13A }
        mem := m
        dpath := ⟨s.h.dataTimeoutCycles, len, bsz, dir, pl.mode, true⟩
        dma := some ⟨s.h.nextDataAddr, len⟩
        env := { (s.consumed 0x100).afterCmd with dmaScript := bytes, drawn := k }
        trace := .irqEnable 0x13A ::
          .cmd 53 (enc53 rw s.h.contDesc.fn (if pl.mode = .block then 1 else 0) s.h.contDesc.opCode s.h.nextRegAddr
            pl.count) :: .dpathEnable :: .dmaProgram s.h.nextDataAddr len ::
          .dpathConfig s.h.dataTimeoutCycles len bsz dir pl.mode ::
          .dmaTeardown :: .dpathDisable :: .irqDisable 0x13A :: .flagClear 0x100 :: .flags :: s.trace } [0]) ∧
      (rw = 1 → m = s.mem ∧ bytes = s.env.dmaScript ∧ k = (s.consumed 0x100).afterCmd.drawn) ∧
      ∀ a, (∀ j < s.h.xferSize.toNat, a ≠ (s.h.pXferBuff + BitVec.ofNat 32 j).toNat) → m.read a = s.mem.read a

/-- A continuation whose command fails ends the request (R253 to R255): the next phase has been programmed from the
continuation registers, then the handle is `Idle` with nothing enabled, the engine is torn down, and the error event
carries the accumulated codes. Only the bytes in flight of a read may change in memory. -/
def Obligations.DmaContinuationFails : Prop :=
  ∀ (s : State) (rw : Bit) (dir : Dir) (codes len bsz : Word) (next : RegAddr) (pl : Phase), s.h.globalState = .active →
    s.snapshot &&& 0x0040013A = 0x100 → s.noCallbacks → s.h.remainingData ≠ 0 →
    (s.h.context = 0b1101 ∧ rw = 0 ∧ dir = .rd ∨ s.h.context = 0b1110 ∧ rw = 1 ∧ dir = .wr) →
    s.env.cmdScript ≠ [] → s.env.cmdAnswer.err ≠ 0 → codes = s.h.lastErrorCodes ||| errmap s.env.cmdAnswer.err →
    pl = phasePlan s.params s.h.contDesc.blockMode s.h.remainingData s.h.blockSize →
    len = BitVec.ofNat 32 pl.len → bsz = BitVec.ofNat 32 pl.bsz →
    next = (if s.h.contDesc.opCode = 1 then s.h.nextRegAddr + BitVec.ofNat 17 pl.len else s.h.nextRegAddr) →
    ∃ (m : Memory) (bytes : List Byte) (k : Nat),
      exec .irqHandler s = .next (State.answered { s with
        h := { s.h with
          globalState := .idle, context := 0, remainingData := 0, lastErrorCodes := codes, xferSize := len
          pXferBuff := s.h.nextDataAddr, nextDataAddr := s.h.nextDataAddr + len, nextRegAddr := next
          irqMask := s.h.irqMask &&& ~~~0x13A }
        mem := m
        dpath := ⟨s.h.dataTimeoutCycles, len, bsz, dir, pl.mode, false⟩
        dma := none
        env := { (s.consumed 0x100).afterCmd with
          flags := flagsCleared (s.consumed 0x100).flags 0x13A, dmaScript := bytes, drawn := k }
        trace := .emit ⟨.error, codes, s.h.cbError⟩ ::
          .flagClear 0x13A :: .dmaTeardown :: .dpathDisable :: .irqDisable 0x13A ::
          .cmd 53 (enc53 rw s.h.contDesc.fn (if pl.mode = .block then 1 else 0) s.h.contDesc.opCode s.h.nextRegAddr
            pl.count) :: .dpathEnable :: .dmaProgram s.h.nextDataAddr len ::
          .dpathConfig s.h.dataTimeoutCycles len bsz dir pl.mode ::
          .dmaTeardown :: .dpathDisable :: .irqDisable 0x13A :: .flagClear 0x100 :: .flags :: s.trace } [0]) ∧
      (rw = 1 → m = s.mem ∧ bytes = s.env.dmaScript ∧ k = (s.consumed 0x100).afterCmd.drawn) ∧
      ∀ a, (∀ j < s.h.xferSize.toNat, a ≠ (s.h.pXferBuff + BitVec.ofNat 32 j).toNat) →
        (∀ j < s.h.remainingData.toNat, a ≠ (s.h.nextDataAddr + BitVec.ofNat 32 j).toNat) → m.read a = s.mem.read a

/-- An error flag ends a DMA request whatever data-complete says (R343, R344): every flag of the sample is translated, the
handle returns to `Idle` with nothing enabled, and the one event is the error event with the accumulated codes. -/
def Obligations.DmaErrorEnds : Prop :=
  ∀ (s : State) (f codes : Word), s.h.globalState = .active → f = s.snapshot &&& 0x0040013A → f &&& 0x3A ≠ 0 →
    f &&& 0x00400000 = 0 → s.noCallbacks → s.h.context = 0b1101 ∨ s.h.context = 0b1110 →
    codes = s.h.lastErrorCodes ||| errorsOfFlags f →
    ∃ (m : Memory) (bytes : List Byte) (k : Nat),
      exec .irqHandler s = .next (State.answered { s with
        h := { s.h with
          globalState := .idle, context := 0, remainingData := 0, lastErrorCodes := codes
          irqMask := s.h.irqMask &&& ~~~0x13A }
        mem := m
        dpath := { s.dpath with enabled := false }
        dma := none
        env := { s.consumed f with dmaScript := bytes, drawn := k }
        trace := .emit ⟨.error, codes, s.h.cbError⟩ :: .dmaTeardown :: .dpathDisable :: .irqDisable 0x13A ::
          .flagClear f :: .flags :: s.trace } [0]) ∧
      (s.h.context = 0b1110 → m = s.mem ∧ bytes = s.env.dmaScript ∧ k = (s.consumed f).drawn) ∧
      ∀ a, (∀ j < s.h.xferSize.toNat + s.h.remainingData.toNat, a ≠ (s.h.pXferBuff + BitVec.ofNat 32 j).toNat) →
        m.read a = s.mem.read a

/-- A card interrupt and a transfer cause in one snapshot `f` are both served (R340, R344): first the dispatcher, whose
pending-byte read, with several functions enabled, is sent before the transfer part's actions; then the transfer part, the
completion of the last phase of a DMA read or write, or an error; and only then the events, the functions' before the
transfer's. `fns` are the functions called, `reads` the dispatcher's commands, `h` and `e` the handle and the environment it
leaves. -/
def Obligations.FunctionEventsComeFirst : Prop :=
  ∀ (s : State) (f : Word) (fns : List Nat) (reads : List PortAction) (h : Handle) (e : Env), s.h.globalState = .active →
    f = s.snapshot &&& 0x0040013A → f &&& 0x00400000 ≠ 0 → s.noCallbacks →
    s.h.context = 0b1101 ∨ s.h.context = 0b1110 →
    ((∃ fn : Fn, fn ≠ 0 ∧ s.h.fnIrqCount = 1 ∧ s.h.fnIrqMask = (1 : Byte) <<< fn.toNat ∧ fns = [fn.toNat] ∧ reads = [] ∧
        h = s.h ∧ e = s.consumed f) ∨
      (2 ≤ s.h.fnIrqCount.toNat ∧ reads = [.cmd 52 0x00000A00] ∧ e = (s.consumed f).afterCmd ∧
        ((s.consumed f).cmdAnswer.err = 0 ∧ h = s.h ∧
            fns = [1, 2, 3, 4, 5, 6, 7].filter (fun k => (s.consumed f).cmdAnswer.resp.getLsbD k) ∨
          (s.consumed f).cmdAnswer.err ≠ 0 ∧ fns = [] ∧
            h = { s.h with lastErrorCodes := s.h.lastErrorCodes ||| errmap (s.consumed f).cmdAnswer.err }))) →
    (f &&& 0x3A = 0 → f &&& 0x100 ≠ 0 → s.h.remainingData = 0 →
      ∃ (m : Memory) (bytes : List Byte) (k : Nat),
        exec .irqHandler s = .next (State.answered { s with
          h := { h with globalState := .idle, context := 0, irqMask := s.h.irqMask &&& ~~~0x13A }
          mem := m
          dpath := { s.dpath with enabled := false }
          dma := none
          env := { e with dmaScript := bytes, drawn := k }
          trace := .emit (if s.h.context = 0b1101 then ⟨.rxComplete, 0, s.h.cbRxComplete⟩
              else ⟨.txComplete, 0, s.h.cbTxComplete⟩) ::
            ((fns.map fun k => PortAction.emit ⟨.fnIrq k, BitVec.ofNat 32 k, s.h.fnCb.get k⟩).reverse ++
              .dmaTeardown :: .dpathDisable :: .irqDisable 0x13A :: (reads ++ .flagClear f :: .flags :: s.trace)) } [0]) ∧
        (s.h.context = 0b1110 → m = s.mem ∧ bytes = s.env.dmaScript ∧ k = e.drawn) ∧
        ∀ a, (∀ j < s.h.xferSize.toNat, a ≠ (s.h.pXferBuff + BitVec.ofNat 32 j).toNat) → m.read a = s.mem.read a) ∧
    (f &&& 0x3A ≠ 0 → ∀ codes, codes = h.lastErrorCodes ||| errorsOfFlags f →
      ∃ (m : Memory) (bytes : List Byte) (k : Nat),
        exec .irqHandler s = .next (State.answered { s with
          h := { h with
            globalState := .idle, context := 0, remainingData := 0, lastErrorCodes := codes
            irqMask := s.h.irqMask &&& ~~~0x13A }
          mem := m
          dpath := { s.dpath with enabled := false }
          dma := none
          env := { e with dmaScript := bytes, drawn := k }
          trace := .emit ⟨.error, codes, s.h.cbError⟩ ::
            ((fns.map fun k => PortAction.emit ⟨.fnIrq k, BitVec.ofNat 32 k, s.h.fnCb.get k⟩).reverse ++
              .dmaTeardown :: .dpathDisable :: .irqDisable 0x13A :: (reads ++ .flagClear f :: .flags :: s.trace)) } [0]) ∧
        (s.h.context = 0b1110 → m = s.mem ∧ bytes = s.env.dmaScript ∧ k = e.drawn) ∧
        ∀ a, (∀ j < s.h.xferSize.toNat + s.h.remainingData.toNat, a ≠ (s.h.pXferBuff + BitVec.ofNat 32 j).toNat) →
          m.read a = s.mem.read a)

/-- A DMA request that meets no error (R256): its commands and engine programs are those of its planned phases, in order, the
first from the request and one more from each invocation of the handler; only the invocation after the last phase emits,
exactly one event, the completion of the direction, and returns the handle to `Idle`. -/
def Obligations.DmaDrivesEveryPhase : Prop :=
  ∀ (s : State) (i : Instr) (rw bm op : Bit) (fn : Fn) (addr : RegAddr) (buf size : Word) (pls : List Phase)
    (done : Event) (answers crest : List CmdAnswer) (frest : List Word),
    s.quiet → s.noCallbacks → s.h.globalState = .idle → s.params.ok = true → s.extOk bm buf size → buf.toNat % 4 = 0 →
    (i = .readExtDma bm op fn addr buf size ∧ rw = 0 ∧ done = ⟨.rxComplete, 0, s.h.cbRxComplete⟩ ∨
      i = .writeExtDma bm op fn addr buf size ∧ rw = 1 ∧ done = ⟨.txComplete, 0, s.h.cbTxComplete⟩) →
    pls = phaseList s.params bm s.h.blockSize size.toNat size →
    s.env.flags &&& 0x13A = 0 → s.h.irqMask &&& 0x00400000 = 0 →
    s.env.flagScript = List.replicate pls.length 0x100 ++ frest →
    s.env.cmdScript = answers ++ crest → answers.length = pls.length → (∀ a ∈ answers, a.err = 0) →
    ∃ (t0 t1 t : State) (tr : List PortAction),
      exec i s = .next t0 ∧ handlerRuns (pls.length - 1) t0 = some t1 ∧ t1.h.globalState = .active ∧
      exec .irqHandler t1 = .next t ∧ t.h.globalState = .idle ∧ t.h.context = 0 ∧ t.h.lastErrorCodes = 0 ∧
      t.trace = .respond [0] :: .emit done :: (tr ++ s.trace) ∧ (∀ a ∈ tr, a.isEmit = false) ∧
      tr.reverse.filter PortAction.isPhase = phaseActions rw fn op addr buf pls

/-- The interrupt request output (R47, R330): it is asserted exactly when a flag is set that is enabled. In a sound state that
is a terminal flag during a DMA request, or the card interrupt with a function enabled (R331). What asserts it stays set
up to the next sample (R40, R344 (d)); and an entry taken with it asserted takes one sample, clears exactly the enabled
flags of that sample once, before anything else, and leaves them clear (R340, R345). When the data path writes the flag
word is the model's choice (log 13). -/
def Obligations.InterruptLine : Prop :=
  ∀ s : State,
    (irqLine s = true ↔ ∃ k < 32, s.env.flags.getLsbD k = true ∧ s.h.irqMask.getLsbD k = true) ∧
    (s.Inv → irqLine s = true →
      (s.env.flags &&& s.h.irqMask &&& 0x13A ≠ 0 ∧ s.h.globalState = .active) ∨
      (s.env.flags &&& s.h.irqMask &&& 0x00400000 ≠ 0 ∧ s.h.fnIrqCount ≠ 0)) ∧
    (s.Inv → s.env.flags &&& s.h.irqMask &&& s.snapshot = s.env.flags &&& s.h.irqMask) ∧
    (∀ q sched u, s.Inv → s.env.irqSchedule = q :: sched → q.taken = true → u = s.atPoint q sched → irqLine u = true →
      s.h.globalState ≠ .reset →
      ∃ (t : State) (tr : List PortAction), step s = .next t ∧
        t.trace = tr ++ .flagClear u.snapshot :: .flags :: s.trace ∧ (∀ a ∈ tr, a ≠ .flags) ∧
        t.env.flags &&& u.snapshot = 0)

/-- What a request submitted by a callback does. With no request outstanding, at an entry from the vector, the requests of the
callbacks of all its events are ordinary requests: their words come to the request port (R347, R399), in the order of the
events and before the words that wait there (the order is the model's choice, log 4). An event whose slot holds `NOOP` runs
no callback, and the platform does nothing with it (R297). While a foreground request is unanswered a callback's request is
a second one (R398, R399): where the foreground holds `Active` it is answered `ST_BUSY` and the foreground request
completes as ever; elsewhere it is the fault `ReentrantRequest` when it passes the state check, and when the spec refuses
it (log 4), and `ST_BUSY` otherwise. These are the model's choices or readings: that a callback submits well-formed
requests alone, that under `Active` a request the spec refuses is answered `ST_BUSY` too, and that `Active` that a DMA
request in flight holds is not the foreground's (log 4); and that a callback inside `READ_DIRECT` finds the foreground's
`Active`, because the interruption point stands after the write of `Active`, directly before the operation's one port
action (log 3). -/
def Obligations.CallbackRequests : Prop :=
  (∀ (s : State) (q : IrqPoint) (sched : List IrqPoint), s.Inv → s.env.irqSchedule = q :: sched → q.taken = true →
    irqLine (s.atPoint q sched) = true →
    ∃ (t : State) (tr : List PortAction) (n : Nat), step s = .next t ∧ t.trace = tr ++ s.trace ∧
      n = tr.countP PortAction.hasCallback ∧ t.env.callbackScript = s.env.callbackScript.drop n ∧
      t.requests = (s.env.callbackScript.take n).flatten.flatMap encode ++ s.requests) ∧
  (∀ (s u : State) (i : Instr) (rest : List (List Instr)) (k : EventKind), s.env.callbackScript = [i] :: rest →
    u = { s with
      env := { s.env with callbackScript := rest }
      trace := .emit ⟨k, s.h.eventArg k, s.h.slot k⟩ :: s.trace } →
    (s.h.slot k = 0 → emit submitDuring k s = .ok ((), { s with trace := .emit ⟨k, s.h.eventArg k, 0⟩ :: s.trace })) ∧
    (s.h.slot k ≠ 0 → s.h.globalState = .active ∧ ¬(s.h.context.getLsbD 3 = true ∧ s.h.irqMask &&& 0x13A = 0x13A) →
      emit submitDuring k s = .ok ((), u.answered [2])) ∧
    (s.h.slot k ≠ 0 → ¬(s.h.globalState = .active ∧ ¬(s.h.context.getLsbD 3 = true ∧ s.h.irqMask &&& 0x13A = 0x13A)) →
      (refusalOf i ≠ none ∨ accepts i s = true → emit submitDuring k s = .error .reentrantRequest) ∧
      (refusalOf i = none → accepts i s = false → emit submitDuring k s = .ok ((), u.answered [2])))) ∧
  ∀ (s u : State) (i : Instr) (rest : List (List Instr)) (fn g : Fn) (raw : Bit) (addr : RegAddr) (q : IrqPoint) (e : Env)
    (ev : PortAction),
    s.h.globalState = .idle → s.h.context = 0 → s.env.callbackScript = [i] :: rest → g ≠ 0 → s.h.fnCb.get g.toNat ≠ 0 →
    s.h.fnIrqCount = 1 → s.h.fnIrqMask = (1 : Byte) <<< g.toNat →
    ev = .emit ⟨.fnIrq g.toNat, BitVec.ofNat 32 g.toNat, s.h.fnCb.get g.toNat⟩ →
    (s.env.irqSchedule = [q] → q.taken = true → u = s.atPoint q [] → irqLine u = true →
      u.snapshot &&& 0x0040013A = 0x00400000 → e = { u.consumed 0x00400000 with callbackScript := rest } →
      (e.cmdAnswer.err = 0 → exec (.readDirect raw fn addr) s = .next (State.answered { s with
        h := { s.h with lastErrorCodes := 0 }
        env := e.afterCmd
        trace := .cmd 52 (enc52 0 fn raw addr 0) :: .respond [2] :: ev :: .flagClear 0x00400000 :: .flags :: s.trace }
        [0, (0 : BitVec 24) ++ e.cmdAnswer.resp.extractLsb' 0 8])) ∧
      (refusalOf i ≠ none ∨ accepts i s = true → exec .getClockFreq s = .fault .reentrantRequest)) ∧
    (s.snapshot &&& 0x0040013A = 0x00400000 →
      (refusalOf i ≠ none ∨ accepts i s = true → exec .irqHandler s = .fault .reentrantRequest) ∧
      (refusalOf i = none → accepts i s = false → exec .irqHandler s = .next (State.answered { s with
        env := { s.consumed 0x00400000 with callbackScript := rest }
        trace := .respond [2] :: ev :: .flagClear 0x00400000 :: .flags :: s.trace } [0])))

/-! ### IO functions -/

/-- `EN_FN_IRQ` (R280): the card's enable register is read and written back with the function's bit, and with the master bit
on the first enable; only then the bookkeeping, the interrupt enable and the "operation enabled" bit. Function 0 is
rejected. -/
def Obligations.EnFnIrqResult : Prop :=
  (∀ s : State, s.h.globalState = .idle →
    exec (.enFnIrq 0) s = .next (State.answered { s with h := { s.h with lastErrorCodes := 0 } } [4])) ∧
  ∀ (s : State) (fn : Fn) (b : Byte) (rd wr : PortAction), s.quiet → s.h.globalState = .idle → fn ≠ 0 →
    b = (s.env.answerAt 0).resp.extractLsb' 0 8 → rd = .cmd 52 0x00000800 →
    wr = .cmd 52 (enc52 1 0 0 0x4 (b ||| (1 : Byte) <<< fn.toNat ||| (if s.h.fnIrqCount = 0 then 1 else 0))) →
    ((s.env.answerAt 0).err = 0 → (s.env.answerAt 1).err = 0 →
      exec (.enFnIrq fn) s = .next (State.answered { s with
        h := { s.h with
          lastErrorCodes := 0, fnIrqMask := s.h.fnIrqMask ||| (1 : Byte) <<< fn.toNat
          fnIrqCount := if s.h.fnIrqMask.getLsbD fn.toNat then s.h.fnIrqCount else s.h.fnIrqCount + 1
          irqMask := s.h.irqMask ||| 0x00400000 }
        bus := { s.bus with sdioOp := true }
        env := s.env.afterCmds 2
        trace := .busSdioOp true :: .irqEnable 0x00400000 :: wr :: rd :: s.trace } [0])) ∧
    ((s.env.answerAt 0).err ≠ 0 → exec (.enFnIrq fn) s = .next (State.answered { s with
      h := { s.h with lastErrorCodes := errmap (s.env.answerAt 0).err }
      env := s.env.afterCmds 1, trace := rd :: s.trace } [1])) ∧
    ((s.env.answerAt 0).err = 0 → (s.env.answerAt 1).err ≠ 0 → exec (.enFnIrq fn) s = .next (State.answered { s with
      h := { s.h with lastErrorCodes := errmap (s.env.answerAt 1).err }
      env := s.env.afterCmds 2, trace := wr :: rd :: s.trace } [1]))

/-- `DIS_FN_IRQ` (R281): the function's bit is cleared in the card and in the mask, a function that was enabled is counted
off, and the controller's side is switched off only when none is left. Function 0 is rejected. -/
def Obligations.DisFnIrqResult : Prop :=
  (∀ s : State, s.h.globalState = .idle →
    exec (.disFnIrq 0) s = .next (State.answered { s with h := { s.h with lastErrorCodes := 0 } } [4])) ∧
  ∀ (s : State) (fn : Fn) (b : Byte) (c : BitVec 4) (rd wr : PortAction), s.quiet → s.h.globalState = .idle → fn ≠ 0 →
    b = (s.env.answerAt 0).resp.extractLsb' 0 8 → rd = .cmd 52 0x00000800 →
    wr = .cmd 52 (enc52 1 0 0 0x4 (b &&& ~~~((1 : Byte) <<< fn.toNat))) →
    c = (if s.h.fnIrqMask.getLsbD fn.toNat then s.h.fnIrqCount - 1 else s.h.fnIrqCount) →
    ((s.env.answerAt 0).err = 0 → (s.env.answerAt 1).err = 0 →
      exec (.disFnIrq fn) s = .next (State.answered { s with
        h := { s.h with
          lastErrorCodes := 0, fnIrqMask := s.h.fnIrqMask &&& ~~~((1 : Byte) <<< fn.toNat), fnIrqCount := c
          irqMask := if c = 0 then s.h.irqMask &&& ~~~0x00400000 else s.h.irqMask }
        bus := { s.bus with sdioOp := if c = 0 then false else s.bus.sdioOp }
        env := s.env.afterCmds 2
        trace := (if c = 0 then [.busSdioOp false, .irqDisable 0x00400000] else []) ++ wr :: rd :: s.trace } [0])) ∧
    ((s.env.answerAt 0).err ≠ 0 → exec (.disFnIrq fn) s = .next (State.answered { s with
      h := { s.h with lastErrorCodes := errmap (s.env.answerAt 0).err }
      env := s.env.afterCmds 1, trace := rd :: s.trace } [1])) ∧
    ((s.env.answerAt 0).err = 0 → (s.env.answerAt 1).err ≠ 0 → exec (.disFnIrq fn) s = .next (State.answered { s with
      h := { s.h with lastErrorCodes := errmap (s.env.answerAt 1).err }
      env := s.env.afterCmds 2, trace := wr :: rd :: s.trace } [1]))

/-- `DIS_FN`, `SEL_FN` and `ABORT_FN` from `Idle` (R285 to R287, R289): one read-modify-write of their register that changes
only the bits named; where the read fails nothing is written; no field of the handle but the error mask changes. `DIS_FN` rejects function 0. -/
def Obligations.FunctionRegisterUpdates : Prop :=
  (∀ s : State, s.h.globalState = .idle →
    exec (.disFn 0) s = .next (State.answered { s with h := { s.h with lastErrorCodes := 0 } } [4])) ∧
  ∀ (s : State) (i : Instr) (fn : Fn) (reg : RegAddr) (clear set b : Byte) (rd wr : PortAction),
    s.quiet → s.h.globalState = .idle →
    (i = .disFn fn ∧ fn ≠ 0 ∧ reg = 0x2 ∧ clear = (1 : Byte) <<< fn.toNat ∧ set = 0 ∨
      i = .selFn fn ∧ reg = 0xD ∧ clear = 0x0F ∧ set = (0 : BitVec 5) ++ fn ∨
      i = .abortFn fn ∧ reg = 0x6 ∧ clear = 0x07 ∧ set = (0 : BitVec 5) ++ fn) →
    b = (s.env.answerAt 0).resp.extractLsb' 0 8 → rd = .cmd 52 (enc52 0 0 0 reg 0) →
    wr = .cmd 52 (enc52 1 0 0 reg (b &&& ~~~clear ||| set)) →
    ((s.env.answerAt 0).err = 0 → (s.env.answerAt 1).err = 0 → exec i s = .next (State.answered { s with
      h := { s.h with lastErrorCodes := 0 }, env := s.env.afterCmds 2, trace := wr :: rd :: s.trace } [0])) ∧
    ((s.env.answerAt 0).err ≠ 0 → exec i s = .next (State.answered { s with
      h := { s.h with lastErrorCodes := errmap (s.env.answerAt 0).err }
      env := s.env.afterCmds 1, trace := rd :: s.trace } [1])) ∧
    ((s.env.answerAt 0).err = 0 → (s.env.answerAt 1).err ≠ 0 → exec i s = .next (State.answered { s with
      h := { s.h with lastErrorCodes := errmap (s.env.answerAt 1).err }
      env := s.env.afterCmds 2, trace := wr :: rd :: s.trace } [1]))

/-- `ABORT_FN` from `Active`, where the parameter allows it (R288): the same two commands and no write of the handle. -/
def Obligations.AbortWhileActive : Prop :=
  ∀ (s : State) (fn : Fn) (b : Byte) (rd wr : PortAction), s.quiet → s.h.globalState = .active →
    s.params.abortWhileActive = true → s.h.context.getLsbD 3 = true →
    b = (s.env.answerAt 0).resp.extractLsb' 0 8 → rd = .cmd 52 0x00000C00 →
    wr = .cmd 52 (enc52 1 0 0 0x6 (b &&& 0xF8 ||| (0 : BitVec 5) ++ fn)) →
    ((s.env.answerAt 0).err = 0 → exec (.abortFn fn) s = .next (State.answered
      { s with env := s.env.afterCmds 2, trace := wr :: rd :: s.trace }
      [if (s.env.answerAt 1).err = 0 then 0 else 1])) ∧
    ((s.env.answerAt 0).err ≠ 0 → exec (.abortFn fn) s = .next (State.answered
      { s with env := s.env.afterCmds 1, trace := rd :: s.trace } [1]))

/-- `EN_FN` with a card whose function becomes ready at the read after `polls` others (R284): the enable bit is or-ed into
the enable register, and the ready register is read once more than there are `polls`, with one time check after each that
was not ready. -/
def Obligations.EnFnBecomesReady : Prop :=
  ∀ (s : State) (fn : Fn) (a w ok : CmdAnswer) (polls rest : List CmdAnswer) (d : BitVec 31)
    (ds trest : List (BitVec 31)),
    s.quiet → s.h.globalState = .idle → fn ≠ 0 → s.env.cmdScript = a :: w :: (polls ++ ok :: rest) →
    a.err = 0 → w.err = 0 → (∀ p ∈ polls, p.err = 0 ∧ p.resp.getLsbD fn.toNat = false) →
    ok.err = 0 → ok.resp.getLsbD fn.toNat = true →
    s.env.tickScript = d :: (ds ++ trest) → ds.length = polls.length →
    tickSum ds < s.params.fnReadyTimeoutMs.toNat → polls.length < s.env.waitBudget →
    ∃ e : Env,
      exec (.enFn fn) s = .next (State.answered { s with
        h := { s.h with lastErrorCodes := 0 }
        env := e
        trace := .cmd 52 0x00000600 ::
          ((List.replicate polls.length [PortAction.tick, .cmd 52 0x00000600]).flatten ++ .tick ::
            .cmd 52 (enc52 1 0 0 0x2 (a.resp.extractLsb' 0 8 ||| (1 : Byte) <<< fn.toNat)) :: .cmd 52 0x00000400 ::
            s.trace) } [0]) ∧
      e.cmdScript = rest ∧ e.tickScript = trest

/-- `EN_FN` with a card that never reports ready (R284): `ST_TIMEOUT` with `ERR_INTERNAL` at the first time check at which
`FN_READY_TIMEOUT_MS` have passed; an error of either command of the enable register, or of a read of the ready register
after any number of reads that were not ready, ends it at once with the command's code; function 0 is rejected. -/
def Obligations.EnFnFails : Prop :=
  (∀ s : State, s.h.globalState = .idle →
    exec (.enFn 0) s = .next (State.answered { s with h := { s.h with lastErrorCodes := 0 } } [4])) ∧
  ∀ (s : State) (fn : Fn), s.quiet → s.h.globalState = .idle → fn ≠ 0 →
    (∀ (a w : CmdAnswer) (polls rest : List CmdAnswer) (d last : BitVec 31) (ds trest : List (BitVec 31)),
      s.env.cmdScript = a :: w :: (polls ++ rest) → a.err = 0 → w.err = 0 →
      (∀ p ∈ polls, p.err = 0 ∧ p.resp.getLsbD fn.toNat = false) →
      s.env.tickScript = d :: (ds ++ last :: trest) → ds.length + 1 = polls.length →
      (tickSum ds < s.params.fnReadyTimeoutMs.toNat ∨ ds = []) →
      s.params.fnReadyTimeoutMs.toNat ≤ tickSum ds + last.toNat → tickSum ds + last.toNat < 2 ^ 32 →
      polls.length ≤ s.env.waitBudget →
      ∃ e : Env,
        exec (.enFn fn) s = .next (State.answered { s with
          h := { s.h with lastErrorCodes := 0x08 }
          env := e
          trace := (List.replicate polls.length [PortAction.tick, .cmd 52 0x00000600]).flatten ++ .tick ::
            .cmd 52 (enc52 1 0 0 0x2 (a.resp.extractLsb' 0 8 ||| (1 : Byte) <<< fn.toNat)) :: .cmd 52 0x00000400 ::
            s.trace } [3]) ∧
        e.cmdScript = rest ∧ e.tickScript = trest) ∧
    ((s.env.answerAt 0).err ≠ 0 → exec (.enFn fn) s = .next (State.answered { s with
      h := { s.h with lastErrorCodes := errmap (s.env.answerAt 0).err }
      env := s.env.afterCmds 1, trace := .cmd 52 0x00000400 :: s.trace } [1])) ∧
    ((s.env.answerAt 0).err = 0 → (s.env.answerAt 1).err ≠ 0 → exec (.enFn fn) s = .next (State.answered { s with
      h := { s.h with lastErrorCodes := errmap (s.env.answerAt 1).err }
      env := s.env.afterCmds 2
      trace := .cmd 52 (enc52 1 0 0 0x2 ((s.env.answerAt 0).resp.extractLsb' 0 8 ||| (1 : Byte) <<< fn.toNat)) ::
        .cmd 52 0x00000400 :: s.trace } [1])) ∧
    (∀ (a w bad : CmdAnswer) (polls rest : List CmdAnswer) (d : BitVec 31) (ds trest : List (BitVec 31)),
      s.env.cmdScript = a :: w :: (polls ++ bad :: rest) → a.err = 0 → w.err = 0 →
      (∀ p ∈ polls, p.err = 0 ∧ p.resp.getLsbD fn.toNat = false) → bad.err ≠ 0 →
      s.env.tickScript = d :: (ds ++ trest) → ds.length = polls.length →
      (tickSum ds < s.params.fnReadyTimeoutMs.toNat ∨ ds = []) → polls.length < s.env.waitBudget →
      ∃ e : Env,
        exec (.enFn fn) s = .next (State.answered { s with
          h := { s.h with lastErrorCodes := errmap bad.err }
          env := e
          trace := .cmd 52 0x00000600 ::
            ((List.replicate polls.length [PortAction.tick, .cmd 52 0x00000600]).flatten ++ .tick ::
              .cmd 52 (enc52 1 0 0 0x2 (a.resp.extractLsb' 0 8 ||| (1 : Byte) <<< fn.toNat)) :: .cmd 52 0x00000400 ::
              s.trace) } [1]) ∧
        e.cmdScript = rest ∧ e.tickScript = trest)

/-- `GET_CCCR` and `GET_FBR` (R292, R293): one register read each, in rising order; the response carries the bytes; on the
first error no value is returned and no further command sent. `GET_FBR` rejects function 0. -/
def Obligations.SnapshotsReadRegisters : Prop :=
  (∀ s : State, s.h.globalState = .idle →
    exec (.getFbr 0) s = .next (State.answered { s with h := { s.h with lastErrorCodes := 0 } } [4])) ∧
  ∀ (s : State) (i : Instr) (n base : Nat) (rd : Nat → PortAction), s.quiet → s.h.globalState = .idle →
    (i = .getCccr ∧ n = s.params.cccrSnapshotLen ∧ base = 0 ∨
      ∃ fn : Fn, fn ≠ 0 ∧ i = .getFbr fn ∧ n = s.params.fbrSnapshotLen ∧ base = 0x100 * fn.toNat) →
    (∀ j, rd j = .cmd 52 (enc52 0 0 0 (BitVec.ofNat 17 (base + j)) 0)) →
    ((∀ j < n, (s.env.answerAt j).err = 0) → exec i s = .next (State.answered { s with
      h := { s.h with lastErrorCodes := 0 }
      env := s.env.afterCmds n
      trace := ((List.range n).map rd).reverse ++ s.trace }
      (0 :: (List.range n).map fun j => (0 : BitVec 24) ++ (s.env.answerAt j).resp.extractLsb' 0 8))) ∧
    (∀ k < n, (∀ j < k, (s.env.answerAt j).err = 0) → (s.env.answerAt k).err ≠ 0 →
      exec i s = .next (State.answered { s with
        h := { s.h with lastErrorCodes := errmap (s.env.answerAt k).err }
        env := s.env.afterCmds (k + 1)
        trace := ((List.range (k + 1)).map rd).reverse ++ s.trace } [1]))

/-! ### The whole machine -/

/-- The machine after power-on is sound; the handle is in `Reset` and not identified (R50). That memory lists nothing and the
request port is empty, and the soundness of the fields that R50 leaves unspecified, are the model's choices of their
values (log 6, log 7, log 8). -/
def Obligations.ResetIsSound : Prop :=
  State.reset.Inv ∧ State.reset.h.globalState = .reset ∧ State.reset.h.identState = .powerOff ∧
  State.reset.mem = [] ∧ State.reset.requests = []

/-- Every step from a sound state, with interrupts and callbacks anywhere, leaves a sound state (R27, R28, R33, R34, R36,
R171, R252, R258, R320, R331, R341). -/
def Obligations.StepKeepsSound : Prop := ∀ s t : State, s.Inv → step s = .next t → t.Inv

/-- From a sound state a data-complete interrupt outside a DMA request never arises (R342); and where no callback submits a
request while another is unanswered, the only requests that can end in a fault are the two polling transfers and `EN_FN`,
which wait on the environment. -/
def Obligations.OnlyWaitsCanFault : Prop :=
  ∀ (s : State) (f : Fault), s.Inv → step s = .fault f →
    f ≠ .spuriousDataEnd ∧
    (s.noReentry →
      (f = .stuck ∧ ∃ fn rest, decode s.requests = .instr (.enFn fn) rest) ∨
      ((f = .stuck ∨ f = .pumpShort) ∧ ∃ bm op fn addr buf size tmo rest,
        decode s.requests = .instr (.readExt bm op fn addr buf size tmo) rest ∨
        decode s.requests = .instr (.writeExt bm op fn addr buf size tmo) rest))

/-- The transitions of the global state that a step can make from a sound state (R32). -/
def Obligations.GlobalStateTransitions : Prop :=
  ∀ s t : State, s.Inv → step s = .next t →
    (s.h.globalState = .reset → t.h.globalState = .reset ∨ t.h.globalState = .init) ∧
    (s.h.globalState = .init → t.h.globalState = .init ∨ t.h.globalState = .idle ∨ t.h.globalState = .cardRemoved ∨
      t.h.globalState = .reset) ∧
    (s.h.globalState = .idle → t.h.globalState = .idle ∨ t.h.globalState = .active ∨
      t.h.globalState = .cardRemoved ∨ t.h.globalState = .reset) ∧
    (s.h.globalState = .active → t.h.globalState = .active ∨ t.h.globalState = .idle ∨
      t.h.globalState = .cardRemoved ∨ t.h.globalState = .reset) ∧
    (s.h.globalState = .cardRemoved → t.h.globalState = .cardRemoved ∨ t.h.globalState = .idle ∨
      t.h.globalState = .reset)

/-- Who may write which part of the state, for every request in every state, with interrupts anywhere (R11, R21, R22, R23,
R24, R42, R44, R45, R282). The descriptor bits are written by the DMA requests, `INIT` and `DEINIT` alone (R29); the
continuation registers of a sound state by these and by the handler while a DMA request is in flight (R26); and an error
bit is never lost but by a request that clears them and passes its state check (R25). A sticky flag that is set stays set but
for a `FlagClear` of it (R40). -/
def Obligations.WhoWritesWhat : Prop :=
  ∀ (s t : State) (i : Instr), exec i s = .next t →
    t.params = s.params ∧
    (t.h.instanceId ≠ s.h.instanceId → ∃ x n, i = .init x n) ∧
    (t.h.transceiverMode ≠ s.h.transceiverMode → (∃ x n, i = .init x n) ∨ i = .deinit) ∧
    (t.h.dataTimeoutCycles ≠ s.h.dataTimeoutCycles → (∃ x n, i = .init x n) ∨ i = .deinit ∨
      ∃ v, i = .setDataTimeout v) ∧
    (t.h.blockSize ≠ s.h.blockSize → (∃ x n, i = .init x n) ∨ i = .deinit ∨ ∃ fn v, i = .setBlockSize fn v) ∧
    (t.h.fnCb ≠ s.h.fnCb ∨ t.h.cbRxComplete ≠ s.h.cbRxComplete ∨ t.h.cbTxComplete ≠ s.h.cbTxComplete ∨
        t.h.cbError ≠ s.h.cbError ∨ t.h.cbTransceiver ≠ s.h.cbTransceiver →
      (∃ x n, i = .init x n) ∨ i = .deinit ∨ ∃ fn sel cb, i = .regCallback fn sel cb) ∧
    (t.h.fnIrqMask ≠ s.h.fnIrqMask ∨ t.h.fnIrqCount ≠ s.h.fnIrqCount →
      (∃ x n, i = .init x n) ∨ i = .deinit ∨ i = .notifyRemoval ∨ (∃ c hw p e w hz, i = .setConfig c hw p e w hz) ∨
      (∃ c hw p e w hz, i = .notifyInsertion c hw p e w hz) ∨ ∃ fn, i = .enFnIrq fn ∨ i = .disFnIrq fn) ∧
    (t.h.cfg ≠ s.h.cfg →
      (∃ x n, i = .init x n) ∨ i = .deinit ∨ i = .notifyRemoval ∨ (∃ c hw p e w hz, i = .setConfig c hw p e w hz) ∨
      (∃ c hw p e w hz, i = .notifyInsertion c hw p e w hz) ∨ (∃ v, i = .setBusWidth v) ∨ ∃ v, i = .setClockFreq v) ∧
    (t.h.contDesc ≠ s.h.contDesc →
      (∃ x n, i = .init x n) ∨ i = .deinit ∨ (∃ bm op fn a b n, i = .readExtDma bm op fn a b n) ∨
      ∃ bm op fn a b n, i = .writeExtDma bm op fn a b n) ∧
    (s.Inv → t.h.remainingData ≠ s.h.remainingData ∨ t.h.nextRegAddr ≠ s.h.nextRegAddr ∨
        t.h.nextDataAddr ≠ s.h.nextDataAddr ∨ t.h.xferSize ≠ s.h.xferSize ∨ t.h.pXferBuff ≠ s.h.pXferBuff →
      (∃ x n, i = .init x n) ∨ i = .deinit ∨ (∃ bm op fn a b n, i = .readExtDma bm op fn a b n) ∨
      (∃ bm op fn a b n, i = .writeExtDma bm op fn a b n) ∨ s.h.context.getLsbD 3 = true) ∧
    (¬(clearsErrors i s = true ∧ accepts i s = true) →
      t.h.lastErrorCodes &&& s.h.lastErrorCodes = s.h.lastErrorCodes) ∧
    (∃ tr, t.trace = tr ++ s.trace ∧ ∀ k ∈ [1, 3, 4, 5, 8, 22], s.env.flags.getLsbD k = true →
      t.env.flags.getLsbD k = true ∨ ∃ m : Word, .flagClear m ∈ tr ∧ m.getLsbD k = true)

/-- What a step may do to memory from a sound state (R80 to R82): outside `Active` only `READ_EXT` and `READ_EXT_DMA` store,
and only into their buffer; while a DMA write is in flight nothing stores; while a DMA read is in flight every store is in
the part of its buffer from the phase in flight on. -/
def Obligations.StoresStayInReadBuffers : Prop :=
  ∀ s t : State, s.Inv → step s = .next t →
    (s.h.globalState ≠ .active → ∀ a : Nat, t.mem.read a ≠ s.mem.read a →
      ∃ bm op fn addr buf size rest,
        (decode s.requests = .instr (.readExtDma bm op fn addr buf size) rest ∨
          ∃ tmo, decode s.requests = .instr (.readExt bm op fn addr buf size tmo) rest) ∧
        buf.toNat ≤ a ∧ a < buf.toNat + size.toNat) ∧
    (s.h.globalState = .active → s.h.context.getLsbD 0 = false → t.mem = s.mem) ∧
    (s.h.globalState = .active → s.h.context.getLsbD 0 = true → ∀ a : Nat, t.mem.read a ≠ s.mem.read a →
      ∃ j < s.h.xferSize.toNat + s.h.remainingData.toNat, a = (s.h.pXferBuff + BitVec.ofNat 32 j).toNat)
end

