-- ==== Sys2Proof/Laws/PerInstr.lean ====
section
/-! SUPPORT. One law for every request, constructor by constructor: the words of a request are as many as its opcode takes
(R92), and their first word carries that opcode. -/

-- one thread: the package compiles as one text
set_option Elab.async false

namespace Sys2Proof.Laws.RequestLength

/-- The request has as many words as the table gives its opcode, and is not empty. -/
def Statement (i : Instr) : Prop :=
  ∃ w ws, encode i = w :: ws ∧ requestLength (opcodeOf w) = ws.length + 1

theorem init (xcvr : Bit) (instanceId : Word) : Statement (.init xcvr instanceId) := by simp [Statement, encode, requestLength]
theorem deinit : Statement (.deinit) := by simp [Statement, encode, requestLength]
theorem setConfig (cid hwfc psave edge : Bit) (width : BitVec 2) (hz : Word) : Statement (.setConfig cid hwfc psave edge width hz) := by simp [Statement, encode, requestLength]
theorem getConfig : Statement (.getConfig) := by simp [Statement, encode, requestLength]
theorem notifyRemoval : Statement (.notifyRemoval) := by simp [Statement, encode, requestLength]
theorem notifyInsertion (cid hwfc psave edge : Bit) (width : BitVec 2) (hz : Word) : Statement (.notifyInsertion cid hwfc psave edge width hz) := by simp [Statement, encode, requestLength]
theorem setBusWidth (val : Word) : Statement (.setBusWidth val) := by simp [Statement, encode, requestLength]
theorem getBusWidth : Statement (.getBusWidth) := by simp [Statement, encode, requestLength]
theorem setClockFreq (val : Word) : Statement (.setClockFreq val) := by simp [Statement, encode, requestLength]
theorem getClockFreq : Statement (.getClockFreq) := by simp [Statement, encode, requestLength]
theorem setBlockSize (fn : Fn) (val : Word) : Statement (.setBlockSize fn val) := by simp [Statement, encode, requestLength]
theorem setSpeedMode (val : Word) : Statement (.setSpeedMode val) := by simp [Statement, encode, requestLength]
theorem resetCard : Statement (.resetCard) := by simp [Statement, encode, requestLength]
theorem setDataTimeout (val : Word) : Statement (.setDataTimeout val) := by simp [Statement, encode, requestLength]
theorem getDataTimeout : Statement (.getDataTimeout) := by simp [Statement, encode, requestLength]
theorem readDirect (raw : Bit) (fn : Fn) (addr : RegAddr) : Statement (.readDirect raw fn addr) := by simp [Statement, encode, requestLength]
theorem writeDirect (raw : Bit) (fn : Fn) (addr : RegAddr) (data : Byte) : Statement (.writeDirect raw fn addr data) := by simp [Statement, encode, requestLength]
theorem readExt (bm opc : Bit) (fn : Fn) (addr : RegAddr) (buf size tmo : Word) : Statement (.readExt bm opc fn addr buf size tmo) := by simp [Statement, encode, requestLength]
theorem writeExt (bm opc : Bit) (fn : Fn) (addr : RegAddr) (buf size tmo : Word) : Statement (.writeExt bm opc fn addr buf size tmo) := by simp [Statement, encode, requestLength]
theorem readExtDma (bm opc : Bit) (fn : Fn) (addr : RegAddr) (buf size : Word) : Statement (.readExtDma bm opc fn addr buf size) := by simp [Statement, encode, requestLength]
theorem writeExtDma (bm opc : Bit) (fn : Fn) (addr : RegAddr) (buf size : Word) : Statement (.writeExtDma bm opc fn addr buf size) := by simp [Statement, encode, requestLength]
theorem irqHandler : Statement (.irqHandler) := by simp [Statement, encode, requestLength]
theorem regCallback (fn : Fn) (sel : BitVec 4) (cb : Word) : Statement (.regCallback fn sel cb) := by simp [Statement, encode, requestLength]
theorem getCccr : Statement (.getCccr) := by simp [Statement, encode, requestLength]
theorem getFbr (fn : Fn) : Statement (.getFbr fn) := by simp [Statement, encode, requestLength]
theorem enFnIrq (fn : Fn) : Statement (.enFnIrq fn) := by simp [Statement, encode, requestLength]
theorem disFnIrq (fn : Fn) : Statement (.disFnIrq fn) := by simp [Statement, encode, requestLength]
theorem enFn (fn : Fn) : Statement (.enFn fn) := by simp [Statement, encode, requestLength]
theorem disFn (fn : Fn) : Statement (.disFn fn) := by simp [Statement, encode, requestLength]
theorem selFn (fn : Fn) : Statement (.selFn fn) := by simp [Statement, encode, requestLength]
theorem abortFn (fn : Fn) : Statement (.abortFn fn) := by simp [Statement, encode, requestLength]
theorem dlybConfig (val : Word) : Statement (.dlybConfig val) := by simp [Statement, encode, requestLength]
theorem dlybCalibrate : Statement (.dlybCalibrate) := by simp [Statement, encode, requestLength]

end Sys2Proof.Laws.RequestLength
end

