-- ==== Sys2Proof/Tests/Slice0.lean ====
section
/-! SUPPORT. Tests. Expected words and values are the spec's own: the request words and vectors V40 to V60 and the programs P1
to P4 of `95_test_vectors.md`, each named at its test; a few are hand-computed from the rule named. -/

-- one thread: the package compiles as one text
set_option Elab.async false

open Sys2Proof Sys2Proof.Machine

namespace Sys2Proof.Tests

/-! ### Helpers -/

/-- The state an outcome leaves; power-on where it stopped. -/
def after (o : Host.Outcome State Fault Refusal) : State :=
  match o with
  | .next t => t
  | _ => State.reset

/-- The handle in a global state, as after P1: block size 64, width 1 at 24 MHz. -/
def handleIn (g : GlobalState) : Handle :=
  { Handle.powerOn with
    instanceId := 1
    globalState := g
    identState := if g = .idle ∨ g = .active then .selected else .powerOff
    blockSize := 64
    dataTimeoutCycles := 0xFFFFFFFF
    cfg := if g = .idle ∨ g = .active then ⟨1, 0, 0, 0, 1, 24000000⟩ else ⟨0, 0, 0, 0, 60, 400000⟩ }

/-- A state in a global state, with answers scripted. -/
def at' (g : GlobalState) (cmds : List CmdAnswer) (flags : List Word := []) (ticks : List (BitVec 31) := [])
    (rx : List Word := []) : State :=
  { State.reset with
    h := handleIn g
    env := { Env.powerOn with
      cmdScript := cmds, flagScript := flags, tickScript := ticks, fifoRx := rx, clockScript := [48000000]
      waitBudget := 8 } }

/-- A good command answer. -/
def good (r : Word) : CmdAnswer := ⟨0, r⟩

/-- A DMA write of 17 bytes with its last phase in flight, as in P3 step 5. -/
def dmaWrite (flags : List Word) : State :=
  let s := at' .active [] flags
  { s with
    h := { s.h with
      context := 0b1110, irqMask := 0x13A, xferSize := 17, pXferBuff := 0x20001600, nextDataAddr := 0x20001611
      cbTxComplete := 0x51
      cbError := 0x52, contDesc := ⟨2, 0, 1⟩ } }

/-- The same with 1041 bytes left to issue, as in P3 step 2. -/
def dmaWriteMore (err : Word) (flags : List Word) : State :=
  let s := dmaWrite flags
  { s with
    h := { s.h with
      xferSize := 512, pXferBuff := 0x20001000, remainingData := 1041, nextRegAddr := 0x200, nextDataAddr := 0x20001200 }
    env := { s.env with cmdScript := [⟨err, 0⟩] } }

/-- A DMA read of 200 bytes in 64-byte blocks with its first phase of 192 in flight (V43-10). -/
def dmaReadMore (err : Word) (flags : List Word) : State :=
  let s := at' .active [⟨err, 0⟩] flags
  { s with
    h := { s.h with
      context := 0b1101, irqMask := 0x13A, xferSize := 192, pXferBuff := 0x20000000, remainingData := 8
      nextRegAddr := 0x8000, nextDataAddr := 0x200000C0, contDesc := ⟨1, 1, 1⟩, cbError := 0x52 } }

/-- A DMA read of 3 bytes in its last phase, the engine about to have written three bytes. -/
def dmaRead (flags : List Word) : State :=
  let s := at' .active [] flags
  { s with
    h := { s.h with
      context := 0b1101, irqMask := 0x13A, xferSize := 3, pXferBuff := 0x100, nextDataAddr := 0x103
      cbRxComplete := 0x50 }
    env := { s.env with dmaScript := [1, 2, 3] } }

/-- Function interrupts enabled for a mask, with the card interrupt raised at the next sample. -/
def fnIrqs (mask : Byte) (count : BitVec 4) (cmds : List CmdAnswer) : State :=
  let s := at' .idle cmds [0x00400000]
  { s with
    h := { s.h with fnIrqMask := mask, fnIrqCount := count, irqMask := 0x00400000, fnCb := ⟨0x31, 0, 0x33, 0, 0x35, 0, 0⟩ }
    bus := { s.bus with sdioOp := true } }

/-- The same state with a schedule of interruption points and words at the request port. -/
def withPort (s : State) (sched : List IrqPoint) (ws : List Word) : State :=
  { s with requests := ws, env := { s.env with irqSchedule := sched } }

/-- An interruption point by which flags have risen and at which the platform takes the interrupt. -/
def taken (rises : Word) : IrqPoint := ⟨rises, true⟩

/-- An interruption point by which flags have risen and at which it does not. -/
def passed (rises : Word) : IrqPoint := ⟨rises, false⟩

/-- The same state with what the callbacks of the events to come submit. -/
def withCallbacks (s : State) (cbs : List (List Instr)) : State := { s with env := { s.env with callbackScript := cbs } }

/-- The same state with a transmit FIFO that is full at a push as scripted. -/
def withTx (s : State) (full : List Bool) : State := { s with env := { s.env with txFullScript := full } }

/-- A state whose parameters allow `ABORT_FN` from `Active`. -/
def abortable (s : State) : State := { s with params := { s.params with abortWhileActive := true } }

/-! ### Well-formedness refuses -/

theorem test_wf_width : (Instr.setConfig 0 0 0 0 3 1).wellFormed = false := by decide
theorem test_wf_width_insertion : (Instr.notifyInsertion 0 0 0 0 3 1).wellFormed = false := by decide
theorem test_wf_sel : (Instr.regCallback 0 5 1).wellFormed = false := by decide
theorem test_wf_sel_needs_fn : (Instr.regCallback 0 4 1).wellFormed = false := by decide
theorem test_wf_fn_needs_sel : (Instr.regCallback 1 1 1).wellFormed = false := by decide
theorem test_wf_good : (Instr.regCallback 3 4 1).wellFormed = true := by decide

/-! ### Decoding: the request words of `95_test_vectors.md` 2.1 -/

theorem test_decode_init : decode [0x01000001, 0x00000002] = .instr (.init 1 2) [] := by decide
theorem test_decode_deinit : decode [0x02000000] = .instr .deinit [] := by decide
theorem test_decode_setConfig :
    decode [0x03000016, 0x02FAF080] = .instr (.setConfig 0 1 0 1 2 50000000) [] := by decide
theorem test_decode_getConfig : decode [0x04000000, 5] = .instr .getConfig [5] := by decide
theorem test_decode_notifyRemoval : decode [0x05000000] = .instr .notifyRemoval [] := by decide
theorem test_decode_notifyInsertion :
    decode [0x06000000, 0x00061A80] = .instr (.notifyInsertion 0 0 0 0 0 400000) [] := by decide
theorem test_decode_setBusWidth : decode [0x07000000, 2] = .instr (.setBusWidth 2) [] := by decide
theorem test_decode_getBusWidth : decode [0x08000000] = .instr .getBusWidth [] := by decide
theorem test_decode_setClockFreq : decode [0x09000000, 0x00B71B00] = .instr (.setClockFreq 12000000) [] := by decide
theorem test_decode_getClockFreq : decode [0x0A000000] = .instr .getClockFreq [] := by decide
theorem test_decode_setBlockSize : decode [0x0B020000, 0x40] = .instr (.setBlockSize 1 64) [] := by decide
theorem test_decode_setSpeedMode : decode [0x0C000000, 1] = .instr (.setSpeedMode 1) [] := by decide
theorem test_decode_resetCard : decode [0x0D000000] = .instr .resetCard [] := by decide
theorem test_decode_setDataTimeout :
    decode [0x0E000000, 0x00100000] = .instr (.setDataTimeout 0x00100000) [] := by decide
theorem test_decode_getDataTimeout : decode [0x0F000000] = .instr .getDataTimeout [] := by decide
theorem test_decode_readDirect : decode [0x101FFFFF] = .instr (.readDirect 1 7 0x1FFFF) [] := by decide
theorem test_decode_writeDirect :
    decode [0x11020010, 0xA5] = .instr (.writeDirect 0 1 0x10 0xA5) [] := by decide
theorem test_decode_readExt :
    decode [0x12121000, 0x20000000, 0x28, 0x64] = .instr (.readExt 0 1 1 0x1000 0x20000000 40 100) [] := by decide
theorem test_decode_writeExt :
    decode [0x13320100, 0x20000200, 0x40, 0x0A] = .instr (.writeExt 1 1 1 0x100 0x20000200 64 10) [] := by decide
theorem test_decode_readExtDma :
    decode [0x14328000, 0x20000000, 0xC8] = .instr (.readExtDma 1 1 1 0x8000 0x20000000 200) [] := by decide
theorem test_decode_writeExtDma :
    decode [0x15140000, 0x20001000, 0x611] = .instr (.writeExtDma 0 1 2 0 0x20001000 1553) [] := by decide
theorem test_decode_irqHandler : decode [0x16000000] = .instr .irqHandler [] := by decide
theorem test_decode_regCallback : decode [0x17060004, 0x33] = .instr (.regCallback 3 4 0x33) [] := by decide
theorem test_decode_getCccr : decode [0x18000000] = .instr .getCccr [] := by decide
theorem test_decode_getFbr : decode [0x19020000] = .instr (.getFbr 1) [] := by decide
theorem test_decode_enFnIrq : decode [0x1A0A0000] = .instr (.enFnIrq 5) [] := by decide
theorem test_decode_disFnIrq : decode [0x1B060000] = .instr (.disFnIrq 3) [] := by decide
theorem test_decode_enFn : decode [0x1C020000] = .instr (.enFn 1) [] := by decide
theorem test_decode_disFn : decode [0x1D020000] = .instr (.disFn 1) [] := by decide
theorem test_decode_selFn : decode [0x1E040000] = .instr (.selFn 2) [] := by decide
theorem test_decode_abortFn : decode [0x1F020000] = .instr (.abortFn 1) [] := by decide
theorem test_decode_dlybConfig : decode [0x20000000, 7] = .instr (.dlybConfig 7) [] := by decide
theorem test_decode_dlybCalibrate : decode [0x21000000] = .instr .dlybCalibrate [] := by decide
/-- R110: the reserved opcodes next to the defined ones. -/
theorem test_decode_reserved :
    decode [0] = .reserved [] ∧ decode [0x22000000, 1] = .reserved [1] ∧ decode [0xFF000000] = .reserved [] := by decide
/-- R111: bit 21 of format D must be 0. -/
theorem test_decode_malformed : decode [0x10200005] = .malformed (.readDirect 0 0 5) [] := by decide

/-! ### Commands, arithmetic and packing -/

/-- 2.1: all-ones fields leave the two fixed bits 0; the count 512 is masked. -/
theorem test_enc : enc52 1 7 1 0x1FFFF 0xFF = 0xFBFFFEFF ∧ enc53 1 7 1 1 0x1FFFF 511 = 0xFFFFFFFF ∧
    enc53 0 1 0 1 0x01000 (BitVec.ofNat 9 512) = 0x14200000 := by decide
/-- 2.3: dividers and clocks. -/
theorem test_div : divOf 48000000 400000 = 60 ∧ divOf 48000000 4294967295 = 0 ∧ freqOf 48000000 0 = 24000000 ∧
    freqOf 50000000 62 = 403225 ∧ divFits Config.params (divOf 48000000 23437) = false ∧
    divFits Config.params (divOf 48000000 23461) = true := by decide
/-- 2.5: plans of 1553 bytes in 512-byte windows, and of 200 bytes in 64-byte blocks. -/
theorem test_plans :
    phaseList Config.params 0 64 5 1553 = [⟨.byte, 0, 512, 512⟩, ⟨.byte, 0, 512, 512⟩, ⟨.byte, 0, 512, 512⟩,
      ⟨.byte, 0x11, 17, 17⟩] ∧
    phaseList Config.params 1 64 5 200 = [⟨.block, 3, 192, 64⟩, ⟨.byte, 8, 8, 8⟩] := by decide
/-- 2.5: 98129 bytes in 64-byte blocks, and a block size that is no power of two. -/
theorem test_plans_block :
    (phaseList Config.params 1 64 5 98129).map Phase.len = [32704, 32704, 32704, 17] ∧ blocks 100 48 = 0 := by decide
/-- V43-3, V43-5: packing and unpacking. -/
theorem test_pack : packBytes [0x55, 0x66] = 0x00006655 ∧ (wordBytes 0xAA776655).take 3 = [0x55, 0x66, 0x77] := by
  decide
/-- V43-8: each flag its own bit; data-complete adds none. -/
theorem test_error_bits : errorsOfFlags 0x02A = 0x70 ∧ errorsOfFlags 0x010 = 0x80 ∧ errorsOfFlags 0x100 = 0 := by decide
/-- V60-7. -/
theorem test_errmap : errmap 3 = 4 ∧ errmap 4 = 8 ∧ errmap 0xFFFFFFFF = 8 := by decide

/-! ### One request each -/

/-- P1 step 1. -/
theorem test_init : (after (exec (.init 0 1) (at' .reset []))).trace =
    [.respond [0], .clockHz, .flagClear 0x13A, .irqDisable 0x0040013A] ∧
    (after (exec (.init 0 1) (at' .reset []))).h.cfg = ⟨0, 0, 0, 0, 60, 400000⟩ := by decide +kernel
/-- V41-12: `DEINIT` with a DMA write in flight. -/
theorem test_deinit : (after (exec .deinit (dmaWrite []))).trace =
    [.respond [0], .flagClear 0x13A, .busPower false, .busSdioOp false, .dmaTeardown, .dpathDisable,
      .irqDisable 0x0040013A] ∧ (after (exec .deinit (dmaWrite []))).h.globalState = .reset := by decide +kernel
/-- P1 step 2. -/
theorem test_setConfig : (after (exec (.setConfig 0 0 0 0 1 24000000) (at' .init
    [good 0, good 0x10FFFF00, good 0x90FFFF00, ⟨3, 0⟩, good 0x00010000, good 0, good 0]))).trace =
    [.respond [0], .cmd 52 0x80000E02, .busConfig 1 0 0 0 1, .cmd 7 0x00010000, .cmd 3 0, .delayMs 1, .cmd 3 0,
      .cmd 5 0x01000000, .cmd 5 0, .cmd 0 0, .delayCycles 74, .busPower true, .busConfig 0 0 0 0 60, .clockHz] := by decide +kernel
/-- V41-2: `HZ = 0` after the clock read alone. -/
theorem test_setConfig_zero : (after (exec (.setConfig 0 0 0 0 1 0) (at' .init []))).trace =
    [.respond [4], .clockHz] := by decide +kernel
/-- V41-6. -/
theorem test_getConfig : (after (exec .getConfig (at' .idle []))).response = [0, 1, 0x016E3600, 1] := by decide +kernel
/-- V41-7. -/
theorem test_notifyRemoval : (after (exec .notifyRemoval (at' .idle []))).trace =
    [.respond [0], .busConfig 0 0 0 0 60, .clockHz, .flagClear 0x13A, .busSdioOp false, .dpathDisable,
      .irqDisable 0x0040013A] := by decide +kernel
/-- V40-5: go-idle fails. -/
theorem test_notifyInsertion : (after (exec (.notifyInsertion 0 0 0 0 0 400000) (at' .cardRemoved [⟨2, 0⟩]))).response =
    [1] ∧ (after (exec (.notifyInsertion 0 0 0 0 0 400000) (at' .cardRemoved [⟨2, 0⟩]))).h.lastErrorCodes = 2 := by decide +kernel
/-- V41-8. -/
theorem test_setBusWidth : (after (exec (.setBusWidth 2) (at' .idle [good 0]))).trace =
    [.respond [0], .busConfig 2 0 0 0 1, .cmd 52 0x80000E03] := by decide +kernel
/-- V41-8: `val = 3`. -/
theorem test_setBusWidth_three : (after (exec (.setBusWidth 3) (at' .idle []))).trace = [.respond [4]] := by decide +kernel
/-- R181. -/
theorem test_getBusWidth : (after (exec .getBusWidth (at' .idle []))).response = [0, 1] := by decide +kernel
/-- V41-9. -/
theorem test_setClockFreq : (after (exec (.setClockFreq 12000000) (at' .idle []))).trace =
    [.respond [0], .busConfig 1 0 0 0 2, .clockHz] := by decide +kernel
/-- V41-9: the divider of the idle state is 1. -/
theorem test_getClockFreq : (after (exec .getClockFreq (at' .idle []))).response = [0, 24000000] := by decide +kernel
/-- V41-10: `val = 512`. -/
theorem test_setBlockSize : (after (exec (.setBlockSize 1 512) (at' .idle [good 0, good 0]))).trace =
    [.respond [0], .cmd 52 0x80022202, .cmd 52 0x80022000] := by decide +kernel
/-- V41-10: the second write fails. -/
theorem test_setBlockSize_fails :
    (after (exec (.setBlockSize 1 512) (at' .idle [good 0, ⟨2, 0⟩]))).h.blockSize = 64 ∧
    (after (exec (.setBlockSize 1 512) (at' .idle [good 0, ⟨2, 0⟩]))).response = [1] := by decide +kernel
/-- R192, R193, R196. -/
theorem test_refused : exec (.setSpeedMode 1) (at' .idle []) = .refused .noSemantics ∧
    exec .resetCard (at' .reset []) = .refused .noSemantics ∧ exec (.dlybConfig 1) (at' .idle []) = .refused .outOfScope ∧
    exec .dlybCalibrate (at' .idle []) = .refused .outOfScope := ⟨rfl, rfl, rfl, rfl⟩
/-- V41-11. -/
theorem test_setDataTimeout :
    (after (exec (.setDataTimeout 0x00100000) (at' .init []))).h.dataTimeoutCycles = 0x00100000 := by decide +kernel
/-- V41-11. -/
theorem test_getDataTimeout : (after (exec .getDataTimeout (at' .init []))).response = [0, 0xFFFFFFFF] := by decide +kernel
/-- V42-2. -/
theorem test_readDirect : (after (exec (.readDirect 1 7 0x1FFFF) (at' .idle [good 0xFFFFFFFF]))).trace =
    [.respond [0, 0xFF], .cmd 52 0x7BFFFE00] := by decide +kernel
/-- V42-5. -/
theorem test_readDirect_busy : (after (exec (.readDirect 0 0 5) (at' .active []))).response = [2] := by decide +kernel
/-- V42-3. -/
theorem test_writeDirect : (after (exec (.writeDirect 1 0 7 2) (at' .idle [good 0x55]))).trace =
    [.respond [0], .cmd 52 0x88000E02] := by decide +kernel
/-- V43-5: a read of 7 bytes, `buf + 7` untouched. -/
theorem test_readExt : (after (exec (.readExt 0 1 1 0x1000 0x100 7 100) (at' .idle [good 0] [0, 0, 0x100] [0, 0, 0]
    [0x44332211, 0xAA776655]))).mem =
    [(0x100, 0x11), (0x101, 0x22), (0x102, 0x33), (0x103, 0x44), (0x104, 0x55), (0x105, 0x66), (0x106, 0x77)] := by decide +kernel
/-- V43-7: data-complete before any byte moved. -/
theorem test_readExt_short : exec (.readExt 0 1 1 0 0x100 4 0) (at' .idle [good 0] [0x100] [0]) = .fault .pumpShort :=
  rfl
/-- V43-3: 6 bytes to a fixed address. -/
theorem test_writeExt : (after (exec (.writeExt 0 0 1 0x2000 0x100 6 10)
    { at' .idle [good 0] [0, 0, 0x100] [0, 0, 0] with
      mem := [(0x100, 0x11), (0x101, 0x22), (0x102, 0x33), (0x103, 0x44), (0x104, 0x55), (0x105, 0x66)] })).trace =
    [.respond [0], .dpathDisable, .flagClear 0x13A, .flags, .tick, .fifoWrite 0x00006655, .flags, .tick,
      .fifoWrite 0x44332211, .flags, .tick, .cmd 53 0x90400006, .dpathEnable,
      .dpathConfig 0xFFFFFFFF 6 6 .wr .byte] := by decide +kernel
/-- V43-7: the timeout at once with `tmo = 0`. -/
theorem test_writeExt_timeout :
    (after (exec (.writeExt 0 0 1 0 0x100 6 0) (at' .idle [good 0] [0x10000] [0, 0]))).response = [3] := by decide +kernel
/-- V43-10, the first phase. -/
theorem test_readExtDma : (after (exec (.readExtDma 1 1 1 0x8000 0x20000000 200) (at' .idle [good 0]))).trace =
    [.respond [0], .irqEnable 0x13A, .cmd 53 0x1D000003, .dpathEnable, .dmaProgram 0x20000000 192,
      .dpathConfig 0xFFFFFFFF 192 64 .rd .block] ∧
    (after (exec (.readExtDma 1 1 1 0x8000 0x20000000 200) (at' .idle [good 0]))).h.nextDataAddr = 0x200000C0 := by decide +kernel
/-- V43-11. -/
theorem test_readExtDma_fails : (after (exec (.readExtDma 0 1 1 0 0x100 4) { at' .idle [⟨2, 0⟩] with
      env := { (at' .idle [⟨2, 0⟩]).env with dmaScript := [1, 2, 3, 4] } })).trace =
    [.respond [1], .flagClear 0x13A, .dmaTeardown, .dpathDisable, .irqDisable 0x13A, .cmd 53 0x14000004, .dpathEnable,
      .dmaProgram 0x100 4, .dpathConfig 0xFFFFFFFF 4 4 .rd .byte] := by decide +kernel
/-- P3 step 1. -/
theorem test_writeExtDma :
    (after (exec (.writeExtDma 0 1 2 0 0x20001000 1553) (at' .idle [good 0]))).h.remainingData = 1041 ∧
    (after (exec (.writeExtDma 0 1 2 0 0x20001000 1553) (at' .idle [good 0]))).h.nextRegAddr = 0x200 := by decide +kernel
/-- P3 step 2: the second phase. -/
theorem test_irqHandler_continues : (after (exec .irqHandler (dmaWriteMore 0 [0x100]))).trace =
    [.respond [0], .irqEnable 0x13A, .cmd 53 0xA4040000, .dpathEnable, .dmaProgram 0x20001200 512,
      .dpathConfig 0xFFFFFFFF 512 512 .wr .byte, .dmaTeardown, .dpathDisable, .irqDisable 0x13A, .flagClear 0x100,
      .flags] := by decide +kernel
/-- P4: pending byte 0x2A, three functions. -/
theorem test_irqHandler_dispatch : (after (exec .irqHandler (fnIrqs 0x2A 3 [good 0x2B]))).trace =
    [.respond [0], .emit ⟨.fnIrq 5, 5, 0x35⟩, .emit ⟨.fnIrq 3, 3, 0x33⟩, .emit ⟨.fnIrq 1, 1, 0x31⟩,
      .cmd 52 0x00000A00, .flagClear 0x00400000, .flags] := by decide +kernel
/-- V44-12. -/
theorem test_regCallback : (after (exec (.regCallback 3 4 0x33) (at' .idle []))).h.fnCb = ⟨0, 0, 0x33, 0, 0, 0, 0⟩ := by decide +kernel
/-- 2.1: `SEL = 5`. -/
theorem test_regCallback_bad : (after (exec (.regCallback 0 5 1) (at' .idle []))).response = [4] := by decide +kernel
/-- V44-10: a failure at read 5. -/
theorem test_getCccr : (after (exec .getCccr (at' .idle [good 1, good 2, good 3, good 4, ⟨1, 0⟩]))).trace =
    [.respond [1], .cmd 52 0x800, .cmd 52 0x600, .cmd 52 0x400, .cmd 52 0x200, .cmd 52 0] := by decide +kernel
/-- V44-11: the first two of a snapshot of function 7. -/
theorem test_getFbr : (after (exec (.getFbr 7) (at' .idle [good 1, ⟨2, 0⟩]))).trace =
    [.respond [1], .cmd 52 0x000E0200, .cmd 52 0x000E0000] := by decide +kernel
/-- V44-1. -/
theorem test_enFnIrq : (after (exec (.enFnIrq 3) (at' .idle [good 0, good 0]))).trace =
    [.respond [0], .busSdioOp true, .irqEnable 0x00400000, .cmd 52 0x80000809, .cmd 52 0x800] ∧
    (after (exec (.enFnIrq 3) (at' .idle [good 0, good 0]))).h.fnIrqMask = 0x08 := by decide +kernel
/-- V44-2: no double count. -/
theorem test_enFnIrq_again : (after (exec (.enFnIrq 5) (fnIrqs 0x28 2 [good 0x29, good 0]))).h.fnIrqCount = 2 := by decide +kernel
/-- V44-3: the last function. -/
theorem test_disFnIrq : (after (exec (.disFnIrq 5) (fnIrqs 0x20 1 [good 0x21, good 0]))).trace =
    [.respond [0], .busSdioOp false, .irqDisable 0x00400000, .cmd 52 0x80000801, .cmd 52 0x800] := by decide +kernel
/-- V44-3: one of two. -/
theorem test_disFnIrq_one : (after (exec (.disFnIrq 3) (fnIrqs 0x28 2 [good 0x29, good 0]))).h.irqMask = 0x00400000 ∧
    (after (exec (.disFnIrq 3) (fnIrqs 0x28 2 [good 0x29, good 0]))).h.fnIrqMask = 0x20 := by decide +kernel
/-- V44-6. -/
theorem test_enFn : (after (exec (.enFn 1) (at' .idle [good 0, good 0, good 0, good 2] [] [0, 1]))).trace =
    [.respond [0], .cmd 52 0x600, .tick, .cmd 52 0x600, .tick, .cmd 52 0x80000402, .cmd 52 0x400] := by decide +kernel
/-- V44-6: five ready reads, then the timeout. -/
theorem test_enFn_timeout : (after (exec (.enFn 1)
    (at' .idle [good 0, good 0, good 0, good 0, good 0, good 0, good 0] [] [0, 1, 1, 1, 1, 1]))).response = [3] := by decide +kernel
/-- V44-7. -/
theorem test_disFn : (after (exec (.disFn 1) (at' .idle [good 6, good 0]))).trace =
    [.respond [0], .cmd 52 0x80000404, .cmd 52 0x400] := by decide +kernel
/-- V44-8: bits 7:4 kept. -/
theorem test_selFn : (after (exec (.selFn 2) (at' .idle [good 0xF7, good 0]))).trace =
    [.respond [0], .cmd 52 0x80001AF2, .cmd 52 0x1A00] := by decide +kernel
/-- V44-9: bit 3 kept. -/
theorem test_abortFn : (after (exec (.abortFn 1) (at' .idle [good 0x0F, good 0]))).trace =
    [.respond [0], .cmd 52 0x80000C09, .cmd 52 0xC00] := by decide +kernel
/-- V43-15: while a DMA request is in flight. -/
theorem test_abortFn_busy : (after (exec (.abortFn 1) (dmaWrite []))).response = [2] := by decide +kernel

/-! ### The hypotheses of the statements can be met: one theorem per statement that has hypotheses, a conjunct per clause -/

/-- The outcome is a next state. -/
def isNext (o : Host.Outcome State Fault Refusal) : Bool :=
  match o with
  | .next _ => true
  | _ => false

/-- Such an outcome is the next state that `after` gives. -/
theorem next_of_isNext {o : Host.Outcome State Fault Refusal} (h : isNext o = true) : o = .next (after o) := by
  cases o
  · rfl
  · cases h
  · cases h

theorem idle_inv : (at' .idle []).Inv :=
  ⟨by constructor <;> decide +kernel, by decide +kernel⟩

theorem active_inv : (dmaWrite [0x100]).Inv :=
  ⟨by constructor <;> decide +kernel, by decide +kernel⟩

theorem reading_inv : (dmaRead [0x100]).Inv :=
  ⟨by constructor <;> decide +kernel, by decide +kernel⟩

theorem inv_withPort {s : State} (i : s.Inv) (sched : List IrqPoint) (ws : List Word) : (withPort s sched ws).Inv :=
  ⟨i.handle, i.memory⟩

theorem witness_DecodedWordsAreCanonical : decode [0x10000005, 7] = .instr (.readDirect 0 0 5) [7] := by decide +kernel

theorem witness_StepRunsDecodedRequest :
    decode (withPort (at' .idle []) [] [0x04000000]).requests = .instr .getConfig [] ∧
    (withPort (at' .idle []) [passed 0x100] [0x04000000]).env.irqSchedule = passed 0x100 :: [] ∧
    (passed 0x100).taken = false ∧
    irqLine ((withPort (at' .idle []) [taken 0x100] [0x04000000]).atPoint (taken 0x100) []) = false ∧
    decode (withPort (at' .idle []) [] [0x12121000, 0, 1]).requests = .waiting ∧
    decode (withPort (at' .idle []) [] []).requests = .waiting := by decide +kernel

theorem witness_VectorEntryIsHandlerWithoutResponse :
    let s := withPort (dmaWrite [0x100]) [taken 0x100] []
    s.env.irqSchedule = taken 0x100 :: [] ∧ (taken 0x100).taken = true ∧ irqLine (s.atPoint (taken 0x100) []) = true ∧
    s.noCallbacks ∧ s.Inv := ⟨rfl, rfl, by decide +kernel, rfl, inv_withPort active_inv _ _⟩

theorem witness_ReservedOpcodeAnswered :
    (withPort (at' .idle []) [] [0]).quiet ∧ opcodeOf 0 = 0 ∧ opcodeOf 0x22000000 = 0x22 ∧ opcodeOf 0xFFFFFFFF = 0xFF :=
  ⟨rfl, by decide +kernel⟩

theorem witness_MalformedRequestAnswered :
    (withPort (at' .idle []) [] [0x0C000001, 0]).quiet ∧
    decode [0x0C000001, 0] = .malformed (.setSpeedMode 0) [] ∧ refusalOf (.setSpeedMode 0) = some .noSemantics ∧
    decode [0x10200005] = .malformed (.readDirect 0 0 5) [] ∧ refusalOf (.readDirect 0 0 5) = none ∧
    accepts (.readDirect 0 0 5) (at' .reset []) = false ∧ accepts (.readDirect 0 0 5) (at' .idle []) = true :=
  ⟨rfl, by decide +kernel⟩

theorem witness_WrongStateAnsweredBusy :
    refusalOf (.init 0 1) = none ∧ accepts (.init 0 1) (at' .idle []) = false ∧
    (at' .idle []).h.globalState ≠ .reset ∧ (at' .cardRemoved []).h.globalState ≠ .init ∧
    (at' .cardRemoved []).h.globalState ≠ .idle ∧ (at' .init []).h.globalState = .init ∧
    (at' .reset []).h.globalState = .reset ∧ (at' .active []).h.globalState = .active ∧
    ¬((dmaWrite []).h.globalState = .active ∧ (dmaWrite []).params.abortWhileActive = true ∧
      (dmaWrite []).h.context.getLsbD 3 = true) := by decide +kernel

theorem witness_InitWritesTheHandle : (at' .reset []).quiet ∧ (at' .reset []).h.globalState = .reset ∧
    (at' .reset []).env.clock.toNat / 800000 < 2 ^ (at' .reset []).params.divBits := ⟨rfl, by decide +kernel⟩

theorem witness_DeinitFromEveryState : (dmaRead []).quiet ∧ (dmaWrite []).quiet ∧
    ¬((dmaWrite []).h.context.getLsbD 3 = true ∧ (dmaWrite []).h.context.getLsbD 0 = true) ∧
    (∀ j < (dmaRead []).h.xferSize.toNat + (dmaRead []).h.remainingData.toNat,
      0x103 ≠ ((dmaRead []).h.pXferBuff + BitVec.ofNat 32 j).toNat) := ⟨rfl, rfl, by decide +kernel⟩

theorem witness_NotifyRemovalResult : (dmaRead []).quiet ∧ (dmaRead []).h.globalState ≠ .reset ∧
    (dmaRead []).env.clockScript = 48000000 :: [] ∧
    (48000000 : Word).toNat / 800000 < 2 ^ (dmaRead []).params.divBits := ⟨rfl, by decide +kernel⟩

theorem witness_GettersReadBack : (at' .idle []).h.globalState = .idle ∧ (dmaWrite []).h.globalState = .active ∧
    (at' .cardRemoved []).h.globalState = .cardRemoved ∧ (at' .idle []).quiet ∧ (at' .init []).h.globalState ≠ .reset ∧
    (at' .init []).h.globalState = .init ∧ (at' .reset []).h.globalState = .reset :=
  ⟨rfl, rfl, rfl, rfl, by decide +kernel⟩

theorem witness_SetDataTimeoutStores : (at' .init []).h.globalState = .init ∧ (at' .idle []).h.globalState = .idle ∧
    (at' .cardRemoved []).h.globalState = .cardRemoved := by decide +kernel

theorem witness_SetBusWidthResult : (at' .idle [good 0]).quiet ∧ (at' .idle [good 0]).h.globalState = .idle ∧
    2 < (3 : Word).toNat ∧ (2 : Word).toNat = (2 : BitVec 2).toNat ∧ (0 : Word).toNat = (0 : BitVec 2).toNat ∧
    (at' .idle [good 0]).env.cmdAnswer.err = 0 ∧ (at' .idle [⟨1, 0⟩]).env.cmdAnswer.err ≠ 0 := ⟨rfl, by decide +kernel⟩

theorem witness_SetClockFreqResult : (at' .idle []).quiet ∧ (at' .init []).h.globalState ≠ .idle ∧ (at' .idle []).h.globalState = .idle ∧
    2 ^ (at' .idle []).params.divBits ≤ (at' .idle []).env.clock.toNat / (2 * (23437 : Word).toNat) ∧
    (at' .idle []).env.clock.toNat / (2 * (23461 : Word).toNat) < 2 ^ (at' .idle []).params.divBits ∧
    (at' .idle []).env.clock ≠ 0 ∧
    ({ at' .idle [] with env := { (at' .idle []).env with clockScript := [0] } }).env.clock = 0 := ⟨rfl, by decide +kernel⟩

theorem witness_SetBlockSizeResult : (at' .idle [good 0, good 0]).quiet ∧
    (at' .idle [good 0, good 0]).params.blockSizeMax < (2049 : Word).toNat ∧
    (2048 : Word).toNat ≤ (at' .idle [good 0, good 0]).params.blockSizeMax ∧ (1 : Word) ≠ 0 ∧
    (at' .idle [good 0, good 0]).params.setBlockSizeWritesCard = true ∧
    ({ (at' .idle []).params with setBlockSizeWritesCard := false }).setBlockSizeWritesCard = false ∧
    ((at' .idle [good 0, good 0]).env.answerAt 0).err = 0 ∧ ((at' .idle [good 0, good 0]).env.answerAt 1).err = 0 ∧
    ((at' .idle [⟨2, 0⟩]).env.answerAt 0).err ≠ 0 ∧ ((at' .idle [good 0, ⟨2, 0⟩]).env.answerAt 1).err ≠ 0 :=
  ⟨rfl, by decide +kernel⟩

theorem witness_RegCallbackStores : (at' .init []).h.globalState = .init ∧ (7 : Fn) ≠ 0 ∧ 4 < (5 : BitVec 4).toNat ∧
    (3 : BitVec 4) ≠ 4 ∧ (1 : Fn) ≠ 0 := by decide +kernel

theorem witness_ConfigureRejectsParameters : (at' .init []).quiet ∧ (at' .init []).h.globalState = .init ∧
    (at' .cardRemoved []).h.globalState = .cardRemoved ∧ (2 : BitVec 2) ≠ 3 ∧
    2 ^ (at' .init []).params.divBits ≤ (at' .init []).env.clock.toNat / (2 * (23437 : Word).toNat) ∧
    ({ at' .init [] with env := { (at' .init []).env with clockScript := [0] } }).env.clock = 0 := ⟨rfl, by decide +kernel⟩

/-- The three ways through the middle of an identification: V40-3, V40-4 and V40-1. -/
theorem witness_identMiddle (s : State) :
    identMiddle s 0x80000000 [] [] ∧
    identMiddle s 0x10FFFF00 [⟨0, 0x11FFFF00⟩] [.cmd 5 (0x01000000 ||| s.params.identOcrArg)] ∧
    identMiddle s 0x20FFFF00 [⟨0, 0xA1FFFF00⟩, ⟨0, 5⟩]
      ((if s.h.transceiverMode = 1 then [.emit ⟨.transceiver, 1, s.h.cbTransceiver⟩] else []) ++
        [.cmd 11 0, .cmd 5 (0x01000000 ||| s.params.identOcrArg)]) :=
  ⟨.inl ⟨by decide +kernel, rfl, rfl⟩, .inr (.inl ⟨by decide +kernel, 0x11FFFF00, by decide +kernel, rfl, rfl⟩),
    .inr (.inr ⟨by decide +kernel, 0xA1FFFF00, 5, by decide +kernel, by decide +kernel, rfl, rfl⟩)⟩

/-- P1 step 2: one retried relative-address request. -/
def bringUp : State :=
  at' .init [good 0, good 0x10FFFF00, good 0x90FFFF00, ⟨3, 0⟩, good 0x00010000, good 0, good 0]

theorem witness_ConfigureCompletes : bringUp.quiet ∧ bringUp.noCallbacks ∧ bringUp.h.globalState = .init ∧ (1 : BitVec 2) ≠ 3 ∧
    (48000000 : Word).toNat / (2 * (24000000 : Word).toNat) < 2 ^ bringUp.params.divBits ∧
    bringUp.env.clockScript = 48000000 :: [] ∧
    bringUp.env.cmdScript = ⟨0, 0⟩ :: ⟨0, 0x10FFFF00⟩ ::
      ([⟨0, 0x90FFFF00⟩] ++ [⟨3, 0⟩] ++ ⟨0, 0x00010000⟩ :: ⟨0, 0⟩ :: ⟨0, 0⟩ :: []) ∧
    identMiddle bringUp 0x10FFFF00 [⟨0, 0x90FFFF00⟩] [.cmd 5 (0x01000000 ||| bringUp.params.identOcrArg)] ∧
    (∀ a ∈ [(⟨3, 0⟩ : CmdAnswer)], a.err = 3) ∧ [(⟨3, 0⟩ : CmdAnswer)].length < bringUp.params.rcaRetryMax :=
  ⟨rfl, rfl, rfl, by decide +kernel, by decide +kernel, rfl, rfl, .inr (.inl ⟨by decide +kernel, 0x90FFFF00, by decide +kernel, rfl, rfl⟩), by decide +kernel,
    by decide +kernel⟩

/-- P5: a card that never gives an address. -/
def noAddress : State := at' .cardRemoved [good 0, good 0, ⟨3, 0⟩, ⟨3, 0⟩, ⟨3, 0⟩]

theorem witness_AddressRetryIsBounded : noAddress.quiet ∧ noAddress.noCallbacks ∧ noAddress.h.globalState = .cardRemoved ∧
    noAddress.env.clockScript = 48000000 :: [] ∧
    (48000000 : Word).toNat / (2 * (24000000 : Word).toNat) < 2 ^ noAddress.params.divBits ∧
    noAddress.env.cmdScript = ⟨0, 0⟩ :: ⟨0, 0⟩ :: ([] ++ [⟨3, 0⟩, ⟨3, 0⟩, ⟨3, 0⟩] ++ []) ∧
    identMiddle noAddress 0 [] [] ∧ (∀ a ∈ [(⟨3, 0⟩ : CmdAnswer), ⟨3, 0⟩, ⟨3, 0⟩], a.err = 3) ∧
    3 = noAddress.params.rcaRetryMax := ⟨rfl, rfl, rfl, rfl, by decide +kernel, rfl, .inl ⟨by decide +kernel, rfl, rfl⟩, by decide +kernel, rfl⟩

theorem witness_ConfigureEndsIdleOrRemoved : bringUp.quiet ∧ bringUp.noReentry ∧ bringUp.h.globalState = .init ∧ bringUp.h.context = 0 ∧
    bringUp.env.clock ≠ 0 ∧
    bringUp.env.clock.toNat / (2 * (24000000 : Word).toNat) < 2 ^ bringUp.params.divBits :=
  ⟨rfl, (by intro q h; cases h), by decide +kernel⟩

theorem witness_DirectTransferResult : (at' .idle [good 0]).quiet ∧ (at' .idle [good 0]).h.globalState = .idle ∧
    (at' .idle [good 0]).env.cmdAnswer.err = 0 ∧ (at' .idle [⟨9, 0⟩]).env.cmdAnswer.err ≠ 0 := ⟨rfl, by decide +kernel⟩

theorem witness_FragmentationBounds : (64 : Word).toNat = 2 ^ 6 ∧ (∀ k < 7, (48 : Word).toNat ≠ 2 ^ k) ∧
    Config.params.ok = true ∧ (phasePlan Config.params 1 200 64).mode = .block ∧
    (phasePlan Config.params 0 512 64).mode = .byte ∧ (1 : Word) ≠ 0 := by decide +kernel

theorem witness_PhasesTile : Config.params.ok = true ∧ 17 ≤ Config.params.windowBytes ∧
    (1553 : Word).toNat = 3 * Config.params.windowBytes + 17 := by decide +kernel

theorem witness_ExtendedOperandChecks : (at' .idle []).h.globalState = .idle ∧
    blocks 63 (at' .idle []).h.blockSize = 0 ∧ 2 ^ 32 < (0xFFFFFFF0 : Word).toNat + (17 : Word).toNat ∧
    (0x20000002 : Word).toNat % 4 ≠ 0 ∧ (at' .idle []).params.pollOversizeRefuse = true ∧
    (phasePlan (at' .idle []).params 0 513 (at' .idle []).h.blockSize).len ≠ (513 : Word).toNat := by decide +kernel

/-- A polling read of 40 bytes with a FIFO that is always ready, as P2. -/
def pollRead : State :=
  at' .idle [good 0] [0x8000, 0x8000, 0x8000, 0x100] [0, 0, 0, 0] [1, 2, 3, 4, 5, 6, 7, 8, 9, 10]

theorem witness_ReadExtMovesBytes : pollRead.quiet ∧ pollRead.h.globalState = .idle ∧ pollRead.extOk 0 0x20000000 40 ∧
    (phasePlan pollRead.params 0 40 pollRead.h.blockSize).len = (40 : Word).toNat ∧ pollRead.env.cmdAnswer.err = 0 ∧
    pollRead.env.flags &&& 0x13A = 0 ∧ 3 = (40 : Word).toNat / 32 + ((40 : Word).toNat % 32 + 3) / 4 ∧
    pollRead.env.flagScript = List.replicate 3 0x8000 ++ 0x100 :: [] ∧
    pollRead.env.tickScript = 0 :: ([0, 0, 0] ++ []) ∧ tickSum [0, 0, 0] < (1 : Word).toNat ∧
    3 < pollRead.env.waitBudget ∧ pollRead.env.fifoRx = [1, 2, 3, 4, 5, 6, 7, 8, 9, 10] ++ [] ∧
    10 = ((40 : Word).toNat + 3) / 4 := ⟨rfl, rfl, ⟨by decide +kernel, by decide +kernel, by decide +kernel⟩, by decide +kernel⟩

/-- A polling write of 6 bytes, as V43-3. -/
def pollWrite : State := withTx (at' .idle [good 0] [0x4000, 0x4000, 0x100] [0, 0, 0]) [false, false]

theorem witness_WriteExtMovesBytes : pollWrite.quiet ∧ pollWrite.h.globalState = .idle ∧
    pollWrite.extOk 0 0x20000100 6 ∧ (phasePlan pollWrite.params 0 6 pollWrite.h.blockSize).len = (6 : Word).toNat ∧
    pollWrite.env.cmdAnswer.err = 0 ∧ pollWrite.env.flags &&& 0x13A = 0 ∧
    2 = (6 : Word).toNat / 32 + ((6 : Word).toNat % 32 + 3) / 4 ∧
    pollWrite.env.flagScript = List.replicate 2 0x4000 ++ 0x100 :: [] ∧
    pollWrite.env.tickScript = 0 :: ([0, 0] ++ []) ∧ tickSum [0, 0] < (10 : Word).toNat ∧
    2 < pollWrite.env.waitBudget ∧
    pollWrite.env.txFullScript = List.replicate (((6 : Word).toNat + 3) / 4) false ++ [] := ⟨rfl, rfl, ⟨by decide +kernel, by decide +kernel, by decide +kernel⟩, by decide +kernel⟩

theorem witness_PollOkMeansEveryByteMoved :
    let read := exec (.readExt 0 1 1 0x1000 0x100 4 5) (at' .idle [good 0] [0, 0x100] [0, 0] [7, 8])
    let lost := exec (.writeExt 0 1 1 0x1000 0x100 4 5) (withTx (at' .idle [good 0] [0, 0x100] [0, 0]) [true])
    let kept := exec (.writeExt 0 1 1 0x1000 0x100 4 5) (withTx (at' .idle [good 0] [0, 0x100] [0, 0]) [false])
    (at' .idle [good 0] [0, 0x100] [0, 0]).extOk 0 0x100 4 ∧ (at' .idle [good 0] [0, 0x100] [0, 0]).quiet ∧
    isNext read = true ∧ (after read).response = [0] ∧ isNext lost = true ∧ (after lost).response = [0] ∧
    (after lost).env.fifoTx = [] ∧ isNext kept = true ∧ (after kept).response = [0] ∧ (after kept).env.fifoTx ≠ [] ∧
    (at' .idle [good 0] [0, 0x100] [0, 0] [7, 8]).env.fifoRx = [7] ++ [8] ∧
    (phasePlan (at' .idle []).params 0 4 (at' .idle []).h.blockSize).len = (4 : Word).toNat :=
  ⟨⟨by decide +kernel, by decide +kernel, by decide +kernel⟩, rfl, by decide +kernel⟩

theorem witness_PollEndsIdle :
    (∃ t, exec (.readExt 0 1 1 0x1000 0x100 4 0) (at' .idle [good 0] [0] [0, 0] [7]) = .next t) ∧
    (∃ t, exec (.writeExt 0 1 1 0x1000 0x100 4 0) (at' .idle [good 0] [2] [0, 0]) = .next t) ∧
    (at' .idle [good 0] [0] [0, 0] [7]).extOk 0 0x100 4 ∧ (at' .idle [good 0] [0] [0, 0] [7]).quiet :=
  ⟨⟨_, next_of_isNext (by decide +kernel)⟩, ⟨_, next_of_isNext (by decide +kernel)⟩,
    ⟨by decide +kernel, by decide +kernel, by decide +kernel⟩, rfl⟩

theorem witness_PollCommandError : (at' .idle [⟨1, 0⟩]).quiet ∧ (at' .idle [⟨1, 0⟩]).h.globalState = .idle ∧
    (at' .idle [⟨1, 0⟩]).extOk 1 0xFFFFFFC0 64 ∧ (at' .idle [⟨1, 0⟩]).env.cmdAnswer.err ≠ 0 ∧
    (phasePlan (at' .idle []).params 1 64 (at' .idle []).h.blockSize).len = (64 : Word).toNat :=
  ⟨rfl, rfl, ⟨by decide +kernel, by decide +kernel, by decide +kernel⟩, by decide +kernel⟩

theorem witness_PollStopsOnFlags : (at' .idle [good 0] [0x102] [0]).quiet ∧
    (at' .idle [good 0] [0x102] [0]).extOk 0 0x100 4 ∧ Config.params.ok = true ∧
    (at' .idle [good 0] [0x102] [0]).env.cmdAnswer.err = 0 ∧ (at' .idle [good 0] [0x102] [0]).env.waitBudget ≠ 0 ∧
    flagSample 0 0x102 false &&& 0x3A ≠ 0 ∧ flagSample 0 0x100 false &&& 0x3A = 0 ∧
    flagSample 0 0x100 false &&& 0x100 ≠ 0 := ⟨rfl, ⟨by decide +kernel, by decide +kernel, by decide +kernel⟩, by decide +kernel⟩

/-- V43-7 with `tmo = 2`, and with `tmo = 0`. -/
theorem witness_PollTimesOut : (at' .idle [good 0] [0x80000, 0x80000] [5, 1, 1]).quiet ∧
    (at' .idle [good 0] [0x80000, 0x80000] [5, 1, 1]).extOk 0 0x100 4 ∧
    (at' .idle [good 0] [0x80000, 0x80000] [5, 1, 1]).env.flagScript = [0x80000, 0x80000] ++ [] ∧
    (∀ f ∈ [(0x80000 : Word), 0x80000], f &&& 0x13A = 0) ∧
    (at' .idle [good 0] [0x80000, 0x80000] [5, 1, 1]).env.tickScript = 5 :: ([1] ++ 1 :: []) ∧
    tickSum [1] < (2 : Word).toNat ∧ (2 : Word).toNat ≤ tickSum [1] + (1 : BitVec 31).toNat ∧
    (0 : Word).toNat ≤ tickSum [] + (0 : BitVec 31).toNat :=
  ⟨rfl, ⟨by decide +kernel, by decide +kernel, by decide +kernel⟩, rfl, by simp, rfl, by decide +kernel⟩

theorem witness_DmaFirstPhase : (at' .idle [good 0]).quiet ∧ (at' .idle [good 0]).h.globalState = .idle ∧
    (at' .idle [good 0]).extOk 1 0x20000000 200 ∧ (0x20000000 : Word).toNat % 4 = 0 ∧
    (at' .idle [good 0]).env.cmdAnswer.err = 0 ∧ (at' .idle [⟨2, 0⟩]).env.cmdAnswer.err ≠ 0 ∧
    Config.params.ok = true := ⟨rfl, rfl, ⟨by decide +kernel, by decide +kernel, by decide +kernel⟩, by decide +kernel⟩

theorem witness_HandlerWithNothingPending : (at' .reset []).h.globalState = .reset ∧
    (at' .idle [] [0x100]).h.globalState ≠ .reset ∧ (at' .idle [] [0x100]).snapshot &&& 0x0040013A = 0 := by decide +kernel

theorem witness_DispatchCallsFunctions : (fnIrqs 0x80 1 []).h.globalState ≠ .reset ∧
    (fnIrqs 0x80 1 []).snapshot &&& 0x0040013A = 0x00400000 ∧ (fnIrqs 0x80 1 []).noCallbacks ∧ (7 : Fn) ≠ 0 ∧
    (fnIrqs 0x80 1 []).h.fnIrqCount = 1 ∧ (fnIrqs 0x80 1 []).h.fnIrqMask = (1 : Byte) <<< (7 : Fn).toNat ∧
    (fnIrqs 0x2A 3 [good 0x2A]).snapshot &&& 0x0040013A = 0x00400000 ∧ (fnIrqs 0x2A 3 [good 0x2A]).noCallbacks ∧
    2 ≤ (fnIrqs 0x2A 3 [good 0x2A]).h.fnIrqCount.toNat ∧
    ((fnIrqs 0x2A 3 [good 0x2A]).consumed 0x00400000).cmdAnswer.err = 0 ∧
    ((fnIrqs 0x2A 3 [⟨2, 0⟩]).consumed 0x00400000).cmdAnswer.err ≠ 0 :=
  ⟨by decide +kernel, by decide +kernel, rfl, by decide +kernel, by decide +kernel, by decide +kernel, by decide +kernel,
    rfl, by decide +kernel⟩

theorem witness_DmaLastPhaseCompletes : (dmaRead [0x100]).h.globalState = .active ∧
    (dmaRead [0x100]).snapshot &&& 0x0040013A = 0x100 ∧ (dmaRead [0x100]).noCallbacks ∧
    (dmaRead [0x100]).h.remainingData = 0 ∧ (dmaRead [0x100]).h.context = 0b1101 ∧
    (dmaRead [0x100]).env.dmaScript = [1, 2, 3] ++ [] ∧ 3 = (dmaRead [0x100]).h.xferSize.toNat ∧
    (dmaWrite [0x100]).h.globalState = .active ∧ (dmaWrite [0x100]).snapshot &&& 0x0040013A = 0x100 ∧
    (dmaWrite [0x100]).noCallbacks ∧ (dmaWrite [0x100]).h.remainingData = 0 ∧ (dmaWrite [0x100]).h.context = 0b1110 ∧
    (dmaWrite [0x100]).h.xferSize = 17 :=
  ⟨rfl, by decide +kernel, rfl, rfl, rfl, rfl, rfl, rfl, by decide +kernel, rfl, rfl, rfl, rfl⟩

theorem witness_DmaContinues : (dmaWriteMore 0 [0x100]).h.globalState = .active ∧
    (dmaWriteMore 0 [0x100]).snapshot &&& 0x0040013A = 0x100 ∧ (dmaWriteMore 0 [0x100]).h.remainingData ≠ 0 ∧
    (dmaWriteMore 0 [0x100]).h.context = 0b1110 ∧ (dmaWriteMore 0 [0x100]).env.cmdScript ≠ [] ∧
    (dmaWriteMore 0 [0x100]).env.cmdAnswer.err = 0 ∧
    (dmaReadMore 0 [0x100]).h.globalState = .active ∧ (dmaReadMore 0 [0x100]).snapshot &&& 0x0040013A = 0x100 ∧
    (dmaReadMore 0 [0x100]).h.remainingData ≠ 0 ∧ (dmaReadMore 0 [0x100]).h.context = 0b1101 ∧
    (dmaReadMore 0 [0x100]).env.cmdScript ≠ [] ∧ (dmaReadMore 0 [0x100]).env.cmdAnswer.err = 0 := by decide +kernel

theorem witness_DmaContinuationFails : (dmaWriteMore 1 [0x100]).h.globalState = .active ∧
    (dmaWriteMore 1 [0x100]).snapshot &&& 0x0040013A = 0x100 ∧ (dmaWriteMore 1 [0x100]).noCallbacks ∧
    (dmaWriteMore 1 [0x100]).h.remainingData ≠ 0 ∧ (dmaWriteMore 1 [0x100]).h.context = 0b1110 ∧
    (dmaWriteMore 1 [0x100]).env.cmdAnswer.err ≠ 0 ∧ (dmaWriteMore 1 [0x100]).env.cmdScript ≠ [] ∧
    (dmaReadMore 3 [0x100]).snapshot &&& 0x0040013A = 0x100 ∧ (dmaReadMore 3 [0x100]).noCallbacks ∧
    (dmaReadMore 3 [0x100]).h.remainingData ≠ 0 ∧ (dmaReadMore 3 [0x100]).h.context = 0b1101 ∧
    (dmaReadMore 3 [0x100]).env.cmdAnswer.err ≠ 0 ∧ (dmaReadMore 3 [0x100]).env.cmdScript ≠ [] :=
  ⟨rfl, by decide +kernel, rfl, by decide +kernel, rfl, by decide +kernel, by decide +kernel, by decide +kernel, rfl,
    by decide +kernel⟩

theorem witness_DmaErrorEnds : (dmaRead [0x108]).h.globalState = .active ∧
    (dmaRead [0x108]).snapshot &&& 0x0040013A &&& 0x3A ≠ 0 ∧
    (dmaRead [0x108]).snapshot &&& 0x0040013A &&& 0x00400000 = 0 ∧ (dmaRead [0x108]).noCallbacks ∧
    (dmaRead [0x108]).h.context = 0b1101 ∧ (dmaWrite [0x108]).h.context = 0b1110 ∧
    (dmaWrite [0x108]).snapshot &&& 0x0040013A &&& 0x3A ≠ 0 :=
  ⟨rfl, by decide +kernel, by decide +kernel, rfl, by decide +kernel⟩

/-- A DMA request in its last phase with function interrupts enabled too. -/
def withFns (s : State) (mask : Byte) (count : BitVec 4) (cmds : List CmdAnswer) : State :=
  { s with
    h := { s.h with fnIrqMask := mask, fnIrqCount := count, irqMask := 0x0040013A }
    bus := { s.bus with sdioOp := true }
    env := { s.env with cmdScript := cmds } }

theorem witness_FunctionEventsComeFirst :
    let w := withFns (dmaWrite [0x00400100]) 0x08 1 []
    let r := withFns (dmaRead [0x00400100]) 0x2A 3 [good 0x2A]
    let e := withFns (dmaRead [0x00400108]) 0x2A 3 [⟨2, 0⟩]
    w.h.globalState = .active ∧ w.snapshot &&& 0x0040013A = 0x00400100 ∧ w.noCallbacks ∧ (3 : Fn) ≠ 0 ∧
    w.h.fnIrqCount = 1 ∧ w.h.fnIrqMask = (1 : Byte) <<< (3 : Fn).toNat ∧ w.h.remainingData = 0 ∧ w.h.context = 0b1110 ∧
    r.h.globalState = .active ∧ r.snapshot &&& 0x0040013A = 0x00400100 ∧ r.noCallbacks ∧ 2 ≤ r.h.fnIrqCount.toNat ∧
    (r.consumed 0x00400100).cmdAnswer.err = 0 ∧ r.h.remainingData = 0 ∧ r.h.context = 0b1101 ∧
    e.snapshot &&& 0x0040013A = 0x00400108 ∧ (e.consumed 0x00400108).cmdAnswer.err ≠ 0 :=
  ⟨rfl, by decide +kernel, rfl, by decide +kernel, rfl, by decide +kernel, rfl, rfl, rfl, by decide +kernel, rfl,
    by decide +kernel⟩

/-- V43-10: 200 bytes in 64-byte blocks, two phases. -/
theorem witness_DmaDrivesEveryPhase :
    let s := at' .idle [good 0, good 0] [0x100, 0x100]
    s.quiet ∧ s.noCallbacks ∧ s.h.globalState = .idle ∧ s.params.ok = true ∧ s.extOk 1 0x20000000 200 ∧
    (0x20000000 : Word).toNat % 4 = 0 ∧ (phaseList s.params 1 s.h.blockSize 200 200).length = 2 ∧
    s.env.flags &&& 0x13A = 0 ∧ s.h.irqMask &&& 0x00400000 = 0 ∧
    s.env.flagScript = List.replicate 2 0x100 ++ [] ∧ s.env.cmdScript = [good 0, good 0] ++ [] ∧
    (∀ a ∈ [good 0, good 0], a.err = 0) :=
  ⟨rfl, rfl, rfl, by decide +kernel, ⟨by decide +kernel, by decide +kernel, by decide +kernel⟩, by decide +kernel⟩

theorem witness_InterruptLine :
    let s := withPort (dmaWrite [0x100]) [taken 0x100] []
    s.Inv ∧ s.env.irqSchedule = taken 0x100 :: [] ∧ (taken 0x100).taken = true ∧
    irqLine (s.atPoint (taken 0x100) []) = true ∧ s.h.globalState ≠ .reset ∧ (s.atPoint (taken 0x100) []).Inv ∧
    irqLine ((fnIrqs 0x08 1 []).atPoint (taken 0x00400000) []) = true :=
  ⟨inv_withPort active_inv _ _, rfl, rfl, by decide +kernel, by decide +kernel, ⟨active_inv.handle, active_inv.memory⟩,
    by decide +kernel⟩

/-- R40, R332: a card interrupt that has risen and not been taken is still there when `DIS_FN_IRQ` has turned the "operation
enabled" bit off. -/
theorem test_sticky :
    let t := after (exec (.disFnIrq 3) (withPort (fnIrqs 0x08 1 [good 8, good 0]) [passed 0x00400000] []))
    (t.env.flags, t.bus.sdioOp, t.h.fnIrqCount) = (0x00400000, false, 0) := by decide +kernel

/-- R341: at the last point before `DIS_FN_IRQ` disables the line the function is still enabled, so its event is given. -/
theorem test_disable_last_entry :
    (after (exec (.disFnIrq 3)
      (withPort (fnIrqs 0x08 1 [good 8, good 0]) [passed 0, passed 0, taken 0x00400000] []))).trace =
      [.respond [0], .busSdioOp false, .irqDisable 0x00400000, .emit ⟨.fnIrq 3, 3, 0x33⟩, .flagClear 0x00400000, .flags,
        .cmd 52 0x80000800, .cmd 52 0x00000800] := by decide +kernel

/-- A function's interrupt is taken at the one point of a request, and its callback submits a request. -/
def callingBack (i : Instr) (cmds : List CmdAnswer) : State :=
  withCallbacks (withPort (fnIrqs 0x08 1 cmds) [taken 0x00400000] []) [[i]]

theorem witness_CallbackRequests :
    let v := withCallbacks (withPort (dmaWrite [0x100]) [taken 0x100] [0x08000000]) [[.getConfig, .deinit]]
    (v.Inv ∧ v.env.irqSchedule = taken 0x100 :: [] ∧ irqLine (v.atPoint (taken 0x100) []) = true) ∧
    ((at' .active []).h.globalState = .active ∧ (at' .active []).h.context = 0 ∧ (dmaWrite []).h.slot .txComplete ≠ 0 ∧
      (dmaWrite []).h.slot .transceiver = 0) ∧
    ((dmaWrite []).h.context.getLsbD 3 = true ∧ (dmaWrite []).h.irqMask &&& 0x13A = 0x13A ∧
      accepts .deinit (dmaWrite []) = true ∧ refusalOf .deinit = none) ∧
    (refusalOf .resetCard ≠ none ∧ accepts (.init 0 1) (at' .idle []) = false ∧ refusalOf (.init 0 1) = none) ∧
    let s := callingBack .getConfig [good 5]
    let u := s.atPoint (taken 0x00400000) []
    s.h.globalState = .idle ∧ s.h.context = 0 ∧ s.env.irqSchedule = [taken 0x00400000] ∧
    s.env.callbackScript = [.getConfig] :: [] ∧ (3 : Fn) ≠ 0 ∧ s.h.fnCb.get (3 : Fn).toNat ≠ 0 ∧ s.h.fnIrqCount = 1 ∧
    s.h.fnIrqMask = (1 : Byte) <<< (3 : Fn).toNat ∧ irqLine u = true ∧ u.snapshot &&& 0x0040013A = 0x00400000 ∧
    (u.consumed 0x00400000).cmdAnswer.err = 0 ∧ s.snapshot &&& 0x0040013A = 0x00400000 ∧ accepts .getConfig s = true :=
  ⟨⟨⟨active_inv.handle, active_inv.memory⟩, rfl, by decide +kernel⟩, by decide +kernel⟩

/-- Two requests of one callback, at an entry from the vector: their words come before the one that waits. -/
theorem test_callback_words :
    (after (step (withCallbacks (withPort (dmaWrite [0x100]) [taken 0x100] [0x08000000])
      [[.getDataTimeout, .setBusWidth 2]]))).requests = [0x0F000000, 0x07000000, 2, 0x08000000] := by decide +kernel

/-- R297: with `NOOP` in the slot the event is given and no callback runs. -/
theorem test_callback_noop :
    let s := dmaWrite [0x100]
    let t := after (step (withCallbacks (withPort { s with h := { s.h with cbTxComplete := 0 } } [taken 0x100] [])
      [[.getDataTimeout]]))
    t.requests = [] ∧ t.trace.head? = some (.emit ⟨.txComplete, 0, 0⟩) ∧ t.env.callbackScript = [[.getDataTimeout]] := by
  decide +kernel

/-- R398: a callback's `GET_CONFIG` while `GET_CLOCK_FREQ` is unanswered. -/
theorem test_callback_reentrant :
    exec .getClockFreq (callingBack .getConfig []) = .fault .reentrantRequest := rfl

/-- R330: an entry offered with the line low is not taken, so the request runs. -/
theorem test_line_low :
    (after (step (withPort (at' .idle []) [taken 0x100] [0x04000000]))).trace = [.respond [0, 1, 0x016E3600, 1]] := by
  decide +kernel

theorem witness_EnFnIrqResult : (at' .idle [good 0, good 0]).quiet ∧ (at' .idle [good 0, good 0]).h.globalState = .idle ∧
    (1 : Fn) ≠ 0 ∧ (7 : Fn) ≠ 0 ∧ ((at' .idle [good 0, good 0]).env.answerAt 0).err = 0 ∧
    ((at' .idle [good 0, good 0]).env.answerAt 1).err = 0 ∧ ((at' .idle [⟨2, 0⟩]).env.answerAt 0).err ≠ 0 ∧
    ((at' .idle [good 0, ⟨2, 0⟩]).env.answerAt 1).err ≠ 0 := ⟨rfl, by decide +kernel⟩

theorem witness_DisFnIrqResult : (fnIrqs 0x20 1 [good 0x21, good 0]).quiet ∧
    (fnIrqs 0x20 1 [good 0x21, good 0]).h.globalState = .idle ∧
    ((fnIrqs 0x20 1 [good 0x21, good 0]).env.answerAt 0).err = 0 ∧
    ((fnIrqs 0x20 1 [good 0x21, good 0]).env.answerAt 1).err = 0 ∧
    ((fnIrqs 0x20 1 [⟨2, 0⟩]).env.answerAt 0).err ≠ 0 ∧
    ((fnIrqs 0x20 1 [good 0, ⟨2, 0⟩]).env.answerAt 1).err ≠ 0 := ⟨rfl, by decide +kernel⟩

theorem witness_FunctionRegisterUpdates : (at' .idle [good 6, good 0]).quiet ∧
    (at' .idle [good 6, good 0]).h.globalState = .idle ∧ (1 : Fn) ≠ 0 ∧
    ((at' .idle [good 6, good 0]).env.answerAt 0).err = 0 ∧ ((at' .idle [good 6, good 0]).env.answerAt 1).err = 0 ∧
    ((at' .idle [⟨2, 0⟩]).env.answerAt 0).err ≠ 0 ∧ ((at' .idle [good 6, ⟨2, 0⟩]).env.answerAt 1).err ≠ 0 :=
  ⟨rfl, by decide +kernel⟩

theorem witness_AbortWhileActive : (abortable (dmaWriteMore 0 [])).quiet ∧
    (abortable (dmaWriteMore 0 [])).h.globalState = .active ∧
    (abortable (dmaWriteMore 0 [])).params.abortWhileActive = true ∧
    (abortable (dmaWriteMore 0 [])).h.context.getLsbD 3 = true ∧
    ((abortable (dmaWriteMore 0 [])).env.answerAt 0).err = 0 ∧
    ((abortable (dmaWriteMore 2 [])).env.answerAt 0).err ≠ 0 := ⟨rfl, by decide +kernel⟩

/-- V44-6. -/
theorem witness_EnFnBecomesReady :
    let s := at' .idle [good 0, good 0, good 0, good 2] [] [0, 1]
    s.quiet ∧ s.h.globalState = .idle ∧ (1 : Fn) ≠ 0 ∧
    s.env.cmdScript = good 0 :: good 0 :: ([good 0] ++ good 2 :: []) ∧
    (∀ p ∈ [good 0], p.err = 0 ∧ p.resp.getLsbD (1 : Fn).toNat = false) ∧
    (good 2).resp.getLsbD (1 : Fn).toNat = true ∧ s.env.tickScript = 0 :: ([1] ++ []) ∧
    tickSum [1] < s.params.fnReadyTimeoutMs.toNat ∧ 1 < s.env.waitBudget := ⟨rfl, by decide +kernel⟩

theorem witness_EnFnFails :
    let s := at' .idle [good 0, good 0, good 0, good 0] [] [0, 1, 4]
    s.quiet ∧ s.h.globalState = .idle ∧ (1 : Fn) ≠ 0 ∧
    s.env.cmdScript = good 0 :: good 0 :: ([good 0, good 0] ++ []) ∧
    (∀ p ∈ [good 0, good 0], p.err = 0 ∧ p.resp.getLsbD (1 : Fn).toNat = false) ∧
    s.env.tickScript = 0 :: ([1] ++ 4 :: []) ∧ tickSum [1] < s.params.fnReadyTimeoutMs.toNat ∧
    s.params.fnReadyTimeoutMs.toNat ≤ tickSum [1] + (4 : BitVec 31).toNat ∧ 2 ≤ s.env.waitBudget ∧
    ((at' .idle [⟨2, 0⟩]).env.answerAt 0).err ≠ 0 ∧ ((at' .idle [good 0, ⟨2, 0⟩]).env.answerAt 1).err ≠ 0 ∧
    (at' .idle [good 0, good 0, good 0, ⟨1, 0⟩] [] [0, 1]).env.cmdScript =
      good 0 :: good 0 :: ([good 0] ++ ⟨1, 0⟩ :: []) ∧
    (at' .idle [good 0, good 0, good 0, ⟨1, 0⟩] [] [0, 1]).env.tickScript = 0 :: ([1] ++ []) ∧
    1 < (at' .idle []).env.waitBudget := ⟨rfl, by decide +kernel⟩

theorem witness_SnapshotsReadRegisters :
    (at' .idle (List.replicate 23 (good 5))).quiet ∧
    (∀ j < (at' .idle (List.replicate 23 (good 5))).params.cccrSnapshotLen,
      ((at' .idle (List.replicate 23 (good 5))).env.answerAt j).err = 0) ∧
    (1 : Fn) ≠ 0 ∧ (∀ j < 1, ((at' .idle [good 5, ⟨2, 0⟩]).env.answerAt j).err = 0) ∧
    ((at' .idle [good 5, ⟨2, 0⟩]).env.answerAt 1).err ≠ 0 ∧ 1 < (at' .idle []).params.fbrSnapshotLen :=
  ⟨rfl, by decide +kernel⟩

theorem witness_StepKeepsSound : (withPort (dmaWrite [0x100]) [] [0x16000000]).Inv ∧
    (∃ t, step (withPort (dmaWrite [0x100]) [] [0x16000000]) = .next t) ∧
    (withPort (dmaRead [0x100]) [taken 0x100] []).Inv ∧ ∃ t, step (withPort (dmaRead [0x100]) [taken 0x100] []) = .next t :=
  ⟨inv_withPort active_inv _ _, ⟨_, rfl⟩, inv_withPort reading_inv _ _, _, rfl⟩

theorem witness_OnlyWaitsCanFault :
    (withPort (at' .idle [good 0] [0x100] [0]) [] [0x12121000, 0x100, 4, 0]).Inv ∧
    (withPort (at' .idle [good 0] [0x100] [0]) [] [0x12121000, 0x100, 4, 0]).noReentry ∧
    step (withPort (at' .idle [good 0] [0x100] [0]) [] [0x12121000, 0x100, 4, 0]) = .fault .pumpShort :=
  ⟨⟨idle_inv.handle, idle_inv.memory⟩, (by intro q h; cases h), rfl⟩

theorem witness_GlobalStateTransitions :
    (∃ t, step (withPort State.reset [] [0x01000000, 1]) = .next t) ∧ (withPort (at' .idle []) [] [0x04000000]).Inv ∧
    ∃ t, step (withPort (at' .idle []) [] [0x04000000]) = .next t :=
  ⟨⟨_, rfl⟩, inv_withPort idle_inv _ _, _, rfl⟩

theorem witness_WhoWritesWhat :
    let made := after (exec (.init 1 5) (at' .reset []))
    let timed := exec (.setDataTimeout 5) (at' .idle [])
    let called := exec (.regCallback 3 4 0x33) (at' .idle [])
    let enabled := exec (.enFnIrq 3) (at' .idle [good 0, good 0])
    let widened := exec (.setBusWidth 2) (at' .idle [good 0])
    let written := exec (.writeExtDma 0 1 2 0 0x20001000 1553) (at' .idle [good 0])
    let continued := exec .irqHandler (dmaWriteMore 0 [0x100])
    (dmaWrite [0x100]).Inv ∧ (dmaWrite [0x100]).h.context.getLsbD 3 = true ∧
    isNext (exec (.init 1 5) (at' .reset [])) = true ∧ made.h.instanceId ≠ (at' .reset []).h.instanceId ∧
    made.h.transceiverMode ≠ (at' .reset []).h.transceiverMode ∧ made.h.blockSize ≠ (at' .reset []).h.blockSize ∧
    isNext timed = true ∧ (after timed).h.dataTimeoutCycles ≠ (at' .idle []).h.dataTimeoutCycles ∧
    isNext called = true ∧ (after called).h.fnCb ≠ (at' .idle []).h.fnCb ∧
    isNext enabled = true ∧ (after enabled).h.fnIrqMask ≠ (at' .idle []).h.fnIrqMask ∧
    isNext widened = true ∧ (after widened).h.cfg ≠ (at' .idle []).h.cfg ∧
    isNext written = true ∧ (after written).h.contDesc ≠ (at' .idle []).h.contDesc ∧
    isNext continued = true ∧ (after continued).h.xferSize = 512 ∧
    (after continued).h.pXferBuff ≠ (dmaWriteMore 0 [0x100]).h.pXferBuff ∧
    ((fnIrqs 0x08 1 []).atPoint (passed 0x00400000) []).env.flags.getLsbD 22 = true ∧
    isNext (exec .irqHandler ((fnIrqs 0x08 1 []).atPoint (passed 0x00400000) [])) = true ∧
    ¬(clearsErrors .irqHandler (dmaRead [0x108]) = true ∧ accepts .irqHandler (dmaRead [0x108]) = true) :=
  ⟨active_inv, by decide +kernel⟩

theorem witness_StoresStayInReadBuffers :
    (∃ t, step (withPort (at' .idle [good 0] [0, 0x100] [0, 0] [7]) [] [0x12121000, 0x100, 4, 5]) = .next t ∧
      t.mem.read 0x100 ≠ (at' .idle []).mem.read 0x100) ∧
    (withPort (dmaWrite [0x100]) [taken 0x100] []).Inv ∧ (∃ t, step (withPort (dmaWrite [0x100]) [taken 0x100] []) = .next t) ∧
    (dmaWrite [0x100]).h.context.getLsbD 0 = false ∧ (withPort (dmaRead [0x100]) [taken 0x100] []).Inv ∧
    (∃ t, step (withPort (dmaRead [0x100]) [taken 0x100] []) = .next t ∧ t.mem.read 0x102 ≠ (dmaRead []).mem.read 0x102) ∧
    (dmaRead [0x100]).h.context.getLsbD 0 = true :=
  ⟨⟨_, next_of_isNext (by decide +kernel), by decide +kernel⟩, inv_withPort active_inv _ _, ⟨_, rfl⟩, by decide +kernel,
    inv_withPort reading_inv _ _, ⟨_, next_of_isNext (by decide +kernel), by decide +kernel⟩, by decide +kernel⟩

end Sys2Proof.Tests
end

section
/-! The statements on configuration: the requests the spec refuses (R112, R192, R193, R196) and the four getters (R174, R181,
R184, R190). -/

namespace Sys2Proof.Machine

/-! ### Refusals -/

/-- A request the spec refuses is refused whatever the state is: the refusal comes before the state check (R327). -/
theorem exec_refused {i : Instr} {r : Refusal} (h : refusalOf i = some r) (s : State) : exec i s = .refused r := by
  cases i with
  | setConfig | notifyInsertion => exact request_refused h
  | setSpeedMode | resetCard | dlybConfig | dlybCalibrate => cases h; rfl
  | _ => cases h

/-- Settles O9: each of the six requests has a refusal, which comes before the state check. -/
theorem refusedInEveryState : Obligations.RefusedInEveryState := fun s _ =>
  ⟨exec_refused rfl s, exec_refused rfl s, exec_refused rfl s, exec_refused rfl s,
    fun _ _ _ _ => ⟨exec_refused rfl s, exec_refused rfl s⟩⟩

/-! ### The state check -/

theorem accepts_iff {i : Instr} {s : State} : accepts i s = true ↔ s.h.globalState ∈ legalStates i s := by
  simp [accepts]

/-- A request the spec gives a meaning is answered `ST_BUSY` outside its legal states, and nothing else happens (R323). -/
theorem exec_busy {i : Instr} {s : State} (hr : refusalOf i = none) (hs : s.h.globalState ∉ legalStates i s) :
    exec i s = .next (s.answered [stBusy]) := by
  have ha : accepts i s = false := Bool.eq_false_iff.2 (accepts_iff.not.2 hs)
  cases i with
  | setSpeedMode | resetCard | dlybConfig | dlybCalibrate => cases hr
  | _ => exact request_busy hr ha

/-! ### Requests that only answer -/

/-- A request that keeps the error mask runs its steps, in a legal state, on the state as it is (R323, R327). -/
theorem request_runs_unchanged {i : Instr} {body : Act Unit} {s : State} (hr : refusalOf i = none)
    (ha : s.h.globalState ∈ legalStates i s) (hc : clearsErrors i s = false) :
    request i body s = finish body s := by
  rw [request_runs hr (accepts_iff.2 ha), hc]
  rfl

/-- A response alone, with no step before it, is put on the response port and nothing else changes (R93). -/
theorem finish_respond (st : Word) (vals : List Word) (s : State) :
    finish (respond st vals) s = .next (s.answered (st :: vals)) := rfl

/-! ### The getters -/

/-- The word of `GET_CONFIG` is its fields side by side, the bits above them 0 (R174). -/
theorem Cfg.word_eq_append (c : Cfg) :
    c.word = (0 : BitVec 27) ++ c.hwFlowControl ++ c.clockPowerSave ++ c.clockEdge ++ c.busWidth := rfl

/-- The bus clock of a divider: the test for the bypass is on the divider itself (R166). -/
theorem freqOf_eq (k d : Word) : freqOf k d = if d = 0 then k.toNat / 2 else k.toNat / (2 * d.toNat) := by
  simp [freqOf, BitVec.toNat_eq]

/-- The steps of `GET_CLOCK_FREQ`: one clock query, then the frequency from the divider in the handle (R184). -/
theorem getClockFreqBody_quiet {s : State} (hq : s.quiet) :
    finish getClockFreqBody s = .next (State.answered { s with env := s.env.afterClock, trace := .clockHz :: s.trace }
      [0, BitVec.ofNat 32 (freqOf s.env.clock s.h.cfg.clockDiv)]) := by
  apply finish_ok
  simp only [getClockFreqBody, bind_apply, via_quiet _ hq, portClockHz_apply, get_apply, respond_apply]
  rfl

section
variable {s : State}

theorem exec_getConfig_legal (h : s.h.globalState ∈ legalStates .getConfig s) :
    exec .getConfig s = .next (s.answered [0, s.h.cfg.word, s.h.cfg.clockHz, s.h.cfg.clockDiv]) :=
  (request_runs_unchanged rfl h rfl).trans (finish_respond ..)

theorem exec_getBusWidth_legal (h : s.h.globalState ∈ legalStates .getBusWidth s) :
    exec .getBusWidth s = .next (s.answered [0, s.h.cfg.busWidth.setWidth 32]) :=
  (request_runs_unchanged rfl h rfl).trans (finish_respond ..)

theorem exec_getClockFreq_legal (h : s.h.globalState ∈ legalStates .getClockFreq s) (hq : s.quiet) :
    exec .getClockFreq s = .next (State.answered { s with env := s.env.afterClock, trace := .clockHz :: s.trace }
      [0, BitVec.ofNat 32 (freqOf s.env.clock s.h.cfg.clockDiv)]) :=
  (request_runs_unchanged rfl h rfl).trans (getClockFreqBody_quiet hq)

theorem exec_getDataTimeout_legal (h : s.h.globalState ∈ legalStates .getDataTimeout s) :
    exec .getDataTimeout s = .next (s.answered [0, s.h.dataTimeoutCycles]) :=
  (request_runs_unchanged rfl h rfl).trans (finish_respond ..)

end

/-- The legal states of the configuration getters (R350). -/
theorem mem_configReadable (g : GlobalState) :
    g ∈ [GlobalState.idle, .active, .cardRemoved] ↔ g = .idle ∨ g = .active ∨ g = .cardRemoved := by
  simp

theorem not_mem_configReadable {g : GlobalState} (h : g = .reset ∨ g = .init) :
    g ∉ [GlobalState.idle, .active, .cardRemoved] := by
  rcases h with rfl | rfl <;> decide

/-- `GET_DATA_TIMEOUT` is legal in every state but `Reset` (R350). -/
theorem mem_timeoutReadable (g : GlobalState) :
    g ∈ [GlobalState.init, .idle, .active, .cardRemoved] ↔ g ≠ .reset := by
  cases g <;> decide

/-- Settles O13: in a legal state a getter's answer is its field, in any other it is `ST_BUSY`. -/
theorem gettersReadBack : Obligations.GettersReadBack := by
  intro s
  refine ⟨fun hg => ?_, fun hg => exec_getDataTimeout_legal ((mem_timeoutReadable _).2 hg), fun hg => ?_, fun hg => ?_⟩
  · have legal := (mem_configReadable _).2 hg
    refine ⟨?_, ?_, fun hq => ?_⟩
    · rw [exec_getConfig_legal legal, Cfg.word_eq_append]
    · rw [exec_getBusWidth_legal legal, BitVec.setWidth_eq_append (by decide)]
      rfl
    · rw [exec_getClockFreq_legal legal hq, freqOf_eq]
  · have illegal := not_mem_configReadable hg
    exact ⟨exec_busy rfl illegal, exec_busy rfl illegal, exec_busy rfl illegal⟩
  · exact exec_busy rfl fun hm => (mem_timeoutReadable _).1 hm hg

end Sys2Proof.Machine
end

section
/-! The statement on direct transfers (R201 to R204): `READ_DIRECT` and `WRITE_DIRECT` run the same steps around one command,
so what they leave is proved once for both. -/

namespace Sys2Proof.Machine

/-- A request that clears the error mask runs its steps, in a legal state, on the state with the mask 0 (R323, R327). -/
theorem request_runs_cleared {i : Instr} {body : Act Unit} {s : State} (hr : refusalOf i = none)
    (ha : s.h.globalState ∈ legalStates i s) (hc : clearsErrors i s = true) :
    request i body s = finish body { s with h := s.h.clearErrors } := by
  rw [request_runs hr (accepts_iff.2 ha), hc]
  rfl

/-- A handle in `Idle` is itself again when `Active` has been entered and left (R201). -/
theorem Handle.withGlobal_active_idle {h : Handle} (hg : h.globalState = .idle) :
    (h.withGlobal .active).withGlobal .idle = h := by
  rw [← hg]
  rfl

/-- Accumulated on a mask that was cleared first, a code is the whole mask (R25). -/
theorem Handle.clearErrors_orErrors (h : Handle) (code : Word) :
    h.clearErrors.orErrors code = { h with lastErrorCodes := code } := by
  simp [Handle.clearErrors, Handle.orErrors]

section
variable {s : State} (rw raw : Bit) (fn : Fn) (addr : RegAddr) (data : Byte)

/-- The steps of a direct transfer with no interrupt: one command while `Active`, then one of the two ends (R202, R203). -/
theorem directBody_quiet (hq : s.quiet) :
    directBody rw raw fn addr data s =
      (if s.env.cmdAnswer.err = 0 then idleOk (if rw = 0 then [(respByte s.env.cmdAnswer.resp).setWidth 32] else [])
        else idleError s.env.cmdAnswer.err) { s with
          h := s.h.withGlobal .active
          env := s.env.afterCmd
          trace := .cmd cmdDirect (enc52 rw fn raw addr data) :: s.trace } := by
  have hq' : State.quiet { s with h := s.h.withGlobal .active } := hq
  simp only [directBody, bind_apply, updH_apply, via_quiet _ hq', portCmd_apply]

/-- A direct transfer whose command succeeds: `Idle` again, the handle as it was, the byte answered to a read alone. -/
theorem directBody_ok (hq : s.quiet) (hg : s.h.globalState = .idle) (he : s.env.cmdAnswer.err = 0) :
    finish (directBody rw raw fn addr data) s = .next (State.answered { s with
      env := s.env.afterCmd, trace := .cmd 52 (enc52 rw fn raw addr data) :: s.trace }
      (0 :: if rw = 0 then [(respByte s.env.cmdAnswer.resp).setWidth 32] else [])) := by
  apply finish_ok
  rw [directBody_quiet _ _ _ _ _ hq, if_pos he, idleOk_apply, Handle.withGlobal_active_idle hg]
  rfl

/-- A direct transfer whose command fails: `Idle` again, the bit of the error accumulated (R324), `ST_ERROR` answered. -/
theorem directBody_error (hq : s.quiet) (hg : s.h.globalState = .idle) (he : s.env.cmdAnswer.err ≠ 0) :
    finish (directBody rw raw fn addr data) s = .next (State.answered { s with
      h := s.h.orErrors (errmap s.env.cmdAnswer.err), env := s.env.afterCmd
      trace := .cmd 52 (enc52 rw fn raw addr data) :: s.trace } [1]) := by
  apply finish_ok
  rw [directBody_quiet _ _ _ _ _ hq, if_neg he, idleError_apply, Handle.withGlobal_active_idle hg]
  rfl

/-- `READ_DIRECT` in `Idle` is let through and runs its steps with the error mask 0. -/
theorem exec_readDirect_idle (hg : s.h.globalState = .idle) :
    exec (.readDirect raw fn addr) s = finish (directBody 0 raw fn addr 0) { s with h := s.h.clearErrors } :=
  request_runs_cleared (i := .readDirect raw fn addr) rfl (List.mem_singleton.2 hg) rfl

/-- `WRITE_DIRECT` in `Idle` is let through and runs its steps with the error mask 0. -/
theorem exec_writeDirect_idle (hg : s.h.globalState = .idle) :
    exec (.writeDirect raw fn addr data) s = finish (directBody 1 raw fn addr data) { s with h := s.h.clearErrors } :=
  request_runs_cleared (i := .writeDirect raw fn addr data) rfl (List.mem_singleton.2 hg) rfl

end

/-- Settles O23: both requests run the steps of a direct transfer, which have two ends, by the error code of the command. -/
theorem directTransferResult : Obligations.DirectTransferResult := by
  intro s raw fn addr data hq hg
  rw [exec_readDirect_idle _ _ _ hg, exec_writeDirect_idle _ _ _ _ hg]
  refine ⟨fun he => ⟨?_, ?_⟩, fun he => ?_⟩
  · have byte : (0 : BitVec 24) ++ s.env.cmdAnswer.resp.extractLsb' 0 8 = (respByte s.env.cmdAnswer.resp).setWidth 32 :=
      (BitVec.setWidth_eq_append (by decide)).symm
    rw [byte]
    exact directBody_ok _ _ _ _ _ hq hg he
  · exact directBody_ok _ _ _ _ _ hq hg he
  · rw [← Handle.clearErrors_orErrors]
    exact ⟨directBody_error _ _ _ _ _ hq hg he, directBody_error _ _ _ _ _ hq hg he⟩

end Sys2Proof.Machine
end

section
/-! The statements on the encoding (R90 to R92, R111): the decoder and the encoder are inverse to each other. -/

namespace Sys2Proof

/-- A request is decoded when its words have come: as many as its opcode takes, the first ones clean and with the operands
in their fields. -/
theorem decode_cons {w0 : Word} {ws rest : List Word} {i : Instr} (hl : requestLength (opcodeOf w0) = ws.length + 1)
    (hf : decodeFields w0 ((ws ++ rest).getD 0 0) ((ws ++ rest).getD 1 0) ((ws ++ rest).getD 2 0) = some (false, i)) :
    decode (w0 :: (ws ++ rest)) = .instr i rest := by
  simp only [decode, hl]
  rw [if_neg (by simp), hf]
  simp

/-- Settles O1: every arm of the encoder writes clean words of its opcode, with the operands in their fields. -/
theorem decodeOfEncode : Obligations.DecodeOfEncode := by
  intro i rest
  cases i with
  | _ => exact decode_cons (by simp [requestLength]) (by simp [decodeFields])

/-! ### The other direction -/

/-- What a decoded request says of the words at the port. -/
theorem of_decode_eq_instr {ws rest : List Word} {i : Instr} (h : decode ws = .instr i rest) :
    ∃ w0 tl n, ws = w0 :: tl ∧ requestLength (opcodeOf w0) = n + 1 ∧ n ≤ tl.length ∧
      decodeFields w0 (tl.getD 0 0) (tl.getD 1 0) (tl.getD 2 0) = some (false, i) ∧ rest = tl.drop n := by
  cases ws with
  | nil => cases h
  | cons w0 tl =>
    cases hl : requestLength (opcodeOf w0) with
    | zero => simp [decode, hl] at h
    | succ n =>
      simp only [decode, hl] at h
      split at h
      · cases h
      · rename_i hn
        split at h
        · cases h
        · rename_i dirty j hf
          cases dirty with
          | true => cases h
          | false =>
            cases h
            exact ⟨w0, tl, n, rfl, hl, Nat.le_of_not_lt hn, hf, rfl⟩

section
variable {w : Word} {n : Nat}

theorem wordN_of_opcode (ho : opcodeOf w = n) (hd : dirtyN w = false) : wordN (BitVec.ofNat 8 n) = w := by
  rw [← opcodeOf_eq ho, ← wordN_eta hd]
theorem wordF_of_opcode (ho : opcodeOf w = n) (hd : dirtyF w = false) : wordF (BitVec.ofNat 8 n) (fnField w) = w := by
  rw [← opcodeOf_eq ho, ← wordF_eta hd]
theorem wordD_of_opcode (ho : opcodeOf w = n) (hd : dirtyD w = false) :
    wordD (BitVec.ofNat 8 n) (bitAt w 20) (fnField w) (addrField w) = w := by
  rw [← opcodeOf_eq ho, ← wordD_eta hd]
theorem wordX_of_opcode (ho : opcodeOf w = n) (hd : dirtyX w = false) :
    wordX (BitVec.ofNat 8 n) (bitAt w 21) (bitAt w 20) (fnField w) (addrField w) = w := by
  rw [← opcodeOf_eq ho, ← wordX_eta hd]
theorem wordC_of_opcode (ho : opcodeOf w = n) (hd : dirtyC w = false) :
    wordC (BitVec.ofNat 8 n) (bitAt w 8) (bitAt w 4) (bitAt w 3) (bitAt w 2) (widthField w) = w := by
  rw [← opcodeOf_eq ho, ← wordC_eta hd]
theorem wordI_of_opcode (ho : opcodeOf w = n) (hd : dirtyI w = false) : wordI (BitVec.ofNat 8 n) (bitAt w 0) = w := by
  rw [← opcodeOf_eq ho, ← wordI_eta hd]
theorem wordK_of_opcode (ho : opcodeOf w = n) (hd : dirtyK w = false) :
    wordK (BitVec.ofNat 8 n) (fnField w) (selField w) = w := by
  rw [← opcodeOf_eq ho, ← wordK_eta hd]

end

/-- A clean request is encoded by the words it was read from, as many of them as its opcode takes. -/
theorem encode_of_decodeFields {w0 w1 w2 w3 : Word} {n : Nat} {i : Instr}
    (h : decodeFields w0 w1 w2 w3 = some (false, i)) (hl : requestLength (opcodeOf w0) = n + 1) :
    encode i = w0 :: [w1, w2, w3].take n := by
  unfold decodeFields at h
  split at h
  case h_34 => cases h
  all_goals
    rename_i ho
    simp only [Option.some.injEq, Prod.mk.injEq] at h
    obtain ⟨hd, rfl⟩ := h
    rw [ho] at hl
    cases hl
  case h_1 => exact congrArg (· :: [w1]) (wordI_of_opcode ho hd)
  case h_2 | h_4 | h_5 | h_8 | h_10 | h_13 | h_15 | h_22 | h_24 | h_33 =>
    exact congrArg (· :: []) (wordN_of_opcode ho hd)
  case h_7 | h_9 | h_12 | h_14 | h_32 => exact congrArg (· :: [w1]) (wordN_of_opcode ho hd)
  case h_3 | h_6 => exact congrArg (· :: [w1]) (wordC_of_opcode ho hd)
  case h_11 => exact congrArg (· :: [w1]) (wordF_of_opcode ho hd)
  case h_16 => exact congrArg (· :: []) (wordD_of_opcode ho hd)
  case h_17 =>
    obtain ⟨hd0, hd1⟩ := Bool.or_eq_false_iff.1 hd
    exact congrArg₂ (fun a b => [a, b]) (wordD_of_opcode ho hd0) (wordData_eta hd1).symm
  case h_18 | h_19 => exact congrArg (· :: [w1, w2, w3]) (wordX_of_opcode ho hd)
  case h_20 | h_21 => exact congrArg (· :: [w1, w2]) (wordX_of_opcode ho hd)
  case h_23 => exact congrArg (· :: [w1]) (wordK_of_opcode ho hd)
  case h_25 | h_26 | h_27 | h_28 | h_29 | h_30 | h_31 => exact congrArg (· :: []) (wordF_of_opcode ho hd)

/-- No request takes more than three words after its first (R92). -/
theorem requestLength_le (op : Nat) : requestLength op ≤ 4 := by
  unfold requestLength
  split <;> omega

/-- The first words of a list, padded with 0, are its own as far as it reaches. -/
theorem take_padded {n : Nat} (h3 : n ≤ 3) {tl : List Word} (hn : n ≤ tl.length) :
    [tl.getD 0 0, tl.getD 1 0, tl.getD 2 0].take n = tl.take n := by
  match n, tl, hn with
  | 0, _, _ => rfl
  | 1, _ :: _, _ => rfl
  | 2, _ :: _ :: _, _ => rfl
  | 3, _ :: _ :: _ :: _, _ => rfl

/-- Settles O2: a decoded request is clean, so that its words are the encoder's, and what follows them is left. -/
theorem decodedWordsAreCanonical : Obligations.DecodedWordsAreCanonical := by
  intro ws rest i h
  obtain ⟨w0, tl, n, rfl, hl, hn, hf, rfl⟩ := of_decode_eq_instr h
  have h3 : n ≤ 3 := by have := requestLength_le (opcodeOf w0); omega
  rw [encode_of_decodeFields hf hl, take_padded h3 hn, List.cons_append, List.take_append_drop]

/-- Settles O3: the words of the six requests as the encoder writes them, read back. -/
theorem workedWordsDecode : Obligations.WorkedWordsDecode :=
  ⟨decodeOfEncode (.readDirect 0 0 0x5) [], decodeOfEncode (.writeDirect 1 0 0x7 0x02) [],
    decodeOfEncode (.readExtDma 1 1 1 0x8000 0x20000000 200) [], decodeOfEncode (.regCallback 3 4 0x33) [],
    decodeOfEncode (.enFnIrq 3) [], decodeOfEncode (.setConfig 0 0 0 0 1 24000000) []⟩

end Sys2Proof
end

section
/-! How what is said of the pieces of an operation gives what is said of the operation: a triple of an assertion before, a
piece, and an assertion after, with what may be the reason of a stop. -/

namespace Sys2Proof.Machine

/-- From every state with `P` the piece `m` ends with `Q`, or stops in a fault that `E` allows. -/
def Triple {α : Type} (E : Fault → Prop) (P : State → Prop) (m : Act α) (Q : α → State → Prop) : Prop :=
  ∀ s, P s →
    match m s with
    | .ok r => Q r.1 r.2
    | .error f => E f

namespace Triple

variable {α β : Type} {E : Fault → Prop} {P : State → Prop} {Q : α → State → Prop} {R : β → State → Prop}

theorem ok {m : Act α} (h : Triple E P m Q) {s t : State} {a : α} (hs : P s) (e : m s = .ok (a, t)) : Q a t := by
  have := h s hs
  rwa [e] at this

theorem error {m : Act α} (h : Triple E P m Q) {s : State} {f : Fault} (hs : P s) (e : m s = .error f) : E f := by
  have := h s hs
  rwa [e] at this

theorem pure {a : α} (h : ∀ s, P s → Q a s) : Triple E P (pure a) Q := fun s hs => h s hs

theorem bind {m : Act α} {f : α → Act β} (hm : Triple E P m Q) (hf : ∀ a, Triple E (Q a) (f a) R) :
    Triple E P (m >>= f) R := by
  intro s hs
  have h1 := hm s hs
  rw [bind_apply]
  cases e : m s with
  | error => rw [e] at h1; exact h1
  | ok r =>
    rw [e] at h1
    exact hf r.1 r.2 h1

theorem upd {f : State → State} {Q : Unit → State → Prop} (h : ∀ s, P s → Q () (f s)) : Triple E P (upd f) Q :=
  fun s hs => h s hs

theorem updH {f : Handle → Handle} {Q : Unit → State → Prop} (h : ∀ s, P s → Q () { s with h := f s.h }) :
    Triple E P (updH f) Q :=
  fun s hs => h s hs

theorem stop {f : Fault} (h : E f) : Triple E P (stop f) Q := fun _ _ => h

/-- The state is read: what follows may use what is known of it. -/
theorem get {f : State → Act β} (h : ∀ s, P s → Triple E P (f s) R) : Triple E P (get >>= f) R :=
  fun s hs => h s hs s hs

theorem ite {c : Prop} [Decidable c] {m n : Act α} (h1 : c → Triple E P m Q) (h2 : ¬c → Triple E P n Q) :
    Triple E P (if c then m else n) Q := by
  split
  · exact h1 ‹_›
  · exact h2 ‹_›

theorem mono {m : Act α} {Q' : α → State → Prop} (h : Triple E P m Q) (hq : ∀ a s, Q a s → Q' a s) :
    Triple E P m Q' := by
  intro s hs
  have h1 := h s hs
  split at h1
  · exact hq _ _ h1
  · exact h1

theorem pre {m : Act α} {P' : State → Prop} (h : Triple E P m Q) (hp : ∀ s, P' s → P s) : Triple E P' m Q :=
  fun s hs => h s (hp s hs)

/-- An interruption point and a port action. -/
theorem via {pt : Act Unit} {p : Act α} {P' : State → Prop} (h1 : Triple E P pt fun _ => P') (h2 : Triple E P' p Q) :
    Triple E P (via pt p) Q :=
  bind h1 fun _ => h2

end Triple

end Sys2Proof.Machine
end

section
/-! What every operation keeps, in every state and with interrupts anywhere: the model arguments, the settings of the handle
that it has no business with, the error bits, and the sticky flags but for a `FlagClear` in the trace. -/

namespace Sys2Proof.Machine

/-- The settings of the handle that an operation may write. -/
structure Footprint where
  ident : Bool := false
  xcvr : Bool := false
  timeout : Bool := false
  blockSize : Bool := false
  slots : Bool := false
  fnIrq : Bool := false
  cfg : Bool := false
  desc : Bool := false
  errors : Bool := false

/-- The settings that are to stay: those of the footprint, and all that is no setting, put aside. -/
def Footprint.rest (w : Footprint) (h : Handle) : Handle :=
  { Handle.powerOn with
    instanceId := if w.ident then 0 else h.instanceId
    transceiverMode := if w.xcvr then 0 else h.transceiverMode
    dataTimeoutCycles := if w.timeout then 0 else h.dataTimeoutCycles
    blockSize := if w.blockSize then 0 else h.blockSize
    cbRxComplete := if w.slots then 0 else h.cbRxComplete
    cbTxComplete := if w.slots then 0 else h.cbTxComplete
    cbError := if w.slots then 0 else h.cbError
    cbTransceiver := if w.slots then 0 else h.cbTransceiver
    fnCb := if w.slots then ⟨0, 0, 0, 0, 0, 0, 0⟩ else h.fnCb
    fnIrqMask := if w.fnIrq then 0 else h.fnIrqMask
    fnIrqCount := if w.fnIrq then 0 else h.fnIrqCount
    cfg := if w.cfg then Cfg.default 0 else h.cfg
    contDesc := if w.desc then ⟨0, 0, 0⟩ else h.contDesc }

/-- The bits of the sticky flags (R40). -/
def stickyBits : List Nat := [1, 3, 4, 5, 8, 22]

/-- A sticky flag that is set stays set but for a `FlagClear` of it (R40). -/
def FlagsStick (s t : State) : Prop :=
  ∃ tr, t.trace = tr ++ s.trace ∧ ∀ k ∈ stickyBits, s.env.flags.getLsbD k = true →
    t.env.flags.getLsbD k = true ∨ ∃ m : Word, .flagClear m ∈ tr ∧ m.getLsbD k = true

theorem FlagsStick.of_eq {s t : State} (tr : List PortAction) (ht : t.trace = tr ++ s.trace)
    (hf : t.env.flags = s.env.flags) : FlagsStick s t :=
  ⟨tr, ht, fun _ _ h => .inl (by rw [hf]; exact h)⟩

theorem FlagsStick.trans {s t u : State} (a : FlagsStick s t) (b : FlagsStick t u) : FlagsStick s u := by
  obtain ⟨tr, h1, h2⟩ := a
  obtain ⟨tr', h3, h4⟩ := b
  refine ⟨tr' ++ tr, by rw [h3, h1, List.append_assoc], fun k hk hs => ?_⟩
  rcases h2 k hk hs with ht | ⟨m, hm, hk'⟩
  · rcases h4 k hk ht with hu | ⟨m, hm, hk'⟩
    · exact .inl hu
    · exact .inr ⟨m, List.mem_append_left _ hm, hk'⟩
  · exact .inr ⟨m, List.mem_append_right _ hm, hk'⟩

/-- What an operation with the footprint `w` leaves of a state. -/
structure Ran (w : Footprint) (s t : State) : Prop where
  params : t.params = s.params
  rest : w.rest t.h = w.rest s.h
  errors : w.errors = false → t.h.lastErrorCodes &&& s.h.lastErrorCodes = s.h.lastErrorCodes
  flags : FlagsStick s t
  callbacks : s.noReentry → t.noReentry

/-- The operation leaves what its footprint says, and stops for a callback's request only where a callback submits one. -/
def Keeps {α : Type} (w : Footprint) (m : Act α) : Prop :=
  ∀ s, Triple (fun f => f = .reentrantRequest → ¬s.noReentry) (Ran w s) m (fun _ => Ran w s)

variable {w : Footprint} {s t u : State}

theorem Ran.refl (s : State) : Ran w s s := ⟨rfl, rfl, fun _ => BitVec.and_self, .of_eq [] rfl rfl, id⟩

theorem Ran.trans (a : Ran w s t) (b : Ran w t u) : Ran w s u where
  params := b.params.trans a.params
  rest := b.rest.trans a.rest
  errors := fun h => keeps_trans (a.errors h) (b.errors h)
  flags := a.flags.trans b.flags
  callbacks := fun h => b.callbacks (a.callbacks h)

namespace Keeps

variable {α β : Type}

/-- One state suffices: what was kept before the piece is kept after it. -/
theorem of_ran {m : Act α}
    (h : ∀ s, match m s with
      | .ok r => Ran w s r.2
      | .error f => f = .reentrantRequest → ¬s.noReentry) : Keeps w m := by
  intro s t ht
  have := h t
  split at this
  · exact ht.trans this
  · exact fun hf hn => this hf (ht.callbacks hn)

theorem ran {m : Act α} (h : Keeps w m) {a : α} (e : m s = .ok (a, t)) : Ran w s t := (h s).ok (.refl s) e

theorem pure (a : α) : Keeps w (pure a) := fun _ => .pure fun _ => id

theorem bind {m : Act α} {f : α → Act β} (hm : Keeps w m) (hf : ∀ a, Keeps w (f a)) : Keeps w (m >>= f) :=
  fun s => (hm s).bind fun a => hf a s

theorem get {f : State → Act β} (h : ∀ s, Keeps w (f s)) : Keeps w (get >>= f) :=
  fun s => .get fun u _ => h u s

theorem ite {c : Prop} [Decidable c] {m n : Act α} (hm : Keeps w m) (hn : Keeps w n) : Keeps w (if c then m else n) :=
  fun s => .ite (fun _ => hm s) fun _ => hn s

theorem via {pt : Act Unit} {p : Act α} (h1 : Keeps w pt) (h2 : Keeps w p) : Keeps w (via pt p) := bind h1 fun _ => h2

theorem stop {f : Fault} (h : f ≠ .reentrantRequest) : Keeps w (stop f : Act α) := fun _ => .stop fun e => absurd e h

/-- A write of the handle that keeps the settings outside the footprint, and the error bits. -/
theorem updH {f : Handle → Handle} (hr : ∀ h, w.rest (f h) = w.rest h)
    (he : w.errors = false → ∀ h, (f h).lastErrorCodes &&& h.lastErrorCodes = h.lastErrorCodes) : Keeps w (updH f) :=
  of_ran fun s => ⟨rfl, hr s.h, fun h => he h s.h, .of_eq [] rfl rfl, id⟩

/-- A port action that writes neither handle nor flags. -/
theorem plain {p : Act α} (h : ∀ s, ∃ a t, p s = .ok (a, t) ∧ t.h = s.h ∧ t.params = s.params ∧
    t.env.flags = s.env.flags ∧ t.env.callbackScript = s.env.callbackScript ∧ ∃ tr, t.trace = tr ++ s.trace) :
    Keeps w p := by
  refine of_ran fun s => ?_
  obtain ⟨a, t, e, hh, hp, hf, hc, tr, ht⟩ := h s
  rw [e]
  exact ⟨hp, by rw [hh], fun _ => by rw [hh]; exact BitVec.and_self, .of_eq tr ht hf,
    fun hn => by rwa [State.noReentry, hc]⟩

end Keeps

/-! ### Port actions -/

section
variable {α : Type}

theorem keeps_portCmd (idx : BitVec 6) (arg : Word) : Keeps w (portCmd idx arg) :=
  .plain fun s => ⟨_, _, rfl, rfl, rfl, by simp, by simp, [_], rfl⟩
theorem keeps_portFifoRead : Keeps w portFifoRead :=
  .plain fun s => ⟨_, _, rfl, rfl, rfl, by simp, by simp, [_], rfl⟩
theorem keeps_portFifoWrite (v : Word) : Keeps w (portFifoWrite v) :=
  .plain fun s => ⟨_, _, rfl, rfl, rfl, by simp, by simp, [_], rfl⟩
theorem keeps_portDpathConfig (a b c : Word) (d : Dir) (m : Mode) : Keeps w (portDpathConfig a b c d m) :=
  .plain fun _ => ⟨_, _, rfl, rfl, rfl, rfl, rfl, [_], rfl⟩
theorem keeps_portDpathEnable : Keeps w portDpathEnable :=
  .plain fun _ => ⟨_, _, rfl, rfl, rfl, rfl, rfl, [_], rfl⟩
theorem keeps_portDpathDisable : Keeps w portDpathDisable :=
  .plain fun _ => ⟨_, _, rfl, rfl, rfl, rfl, rfl, [_], rfl⟩
theorem keeps_portDmaProgram (a b : Word) : Keeps w (portDmaProgram a b) :=
  .plain fun _ => ⟨_, _, rfl, rfl, rfl, rfl, rfl, [_], rfl⟩
theorem keeps_portDmaTeardown : Keeps w portDmaTeardown :=
  .plain fun _ => ⟨_, _, rfl, rfl, rfl, rfl, rfl, [_], rfl⟩
theorem keeps_portBusPower (on : Bool) : Keeps w (portBusPower on) :=
  .plain fun _ => ⟨_, _, rfl, rfl, rfl, rfl, rfl, [_], rfl⟩
theorem keeps_portBusConfig (v : BitVec 2) (a b c : Bit) (d : Word) : Keeps w (portBusConfig v a b c d) :=
  .plain fun _ => ⟨_, _, rfl, rfl, rfl, rfl, rfl, [_], rfl⟩
theorem keeps_portSdioOp (on : Bool) : Keeps w (portSdioOp on) :=
  .plain fun _ => ⟨_, _, rfl, rfl, rfl, rfl, rfl, [_], rfl⟩
theorem keeps_portClockHz : Keeps w portClockHz :=
  .plain fun s => ⟨_, _, rfl, rfl, rfl, by simp, by simp, [_], rfl⟩
theorem keeps_portTick : Keeps w portTick :=
  .plain fun s => ⟨_, _, rfl, rfl, rfl, by simp, by simp, [_], rfl⟩
theorem keeps_portDelayMs (n : Nat) : Keeps w (portDelayMs n) :=
  .plain fun _ => ⟨_, _, rfl, rfl, rfl, rfl, rfl, [_], rfl⟩
theorem keeps_portDelayCycles (n ms : Nat) : Keeps w (portDelayCycles n ms) :=
  .plain fun _ => ⟨_, _, rfl, rfl, rfl, rfl, rfl, [_], rfl⟩
theorem keeps_respond (st : Word) (vals : List Word) : Keeps w (respond st vals) :=
  .plain fun _ => ⟨_, _, rfl, rfl, rfl, rfl, rfl, [_], rfl⟩
theorem keeps_defaultDiv (k : Word) : Keeps w (defaultDiv k) :=
  .plain fun _ => ⟨_, _, rfl, rfl, rfl, rfl, rfl, [], rfl⟩
theorem keeps_unreadClock : Keeps w unreadClock :=
  .plain fun _ => ⟨_, _, rfl, rfl, rfl, rfl, rfl, [], rfl⟩
theorem keeps_settleWait (k : Word) : Keeps w (settleWait k) :=
  .plain fun _ => ⟨_, _, rfl, rfl, rfl, rfl, rfl, [], rfl⟩

theorem stickyBits_sticky {k : Nat} (h : k ∈ stickyBits) : stickyFlags.getLsbD k = true := by
  revert k
  decide

theorem keeps_portFlags : Keeps w portFlags :=
  .of_ran fun s => ⟨rfl, rfl, fun _ => BitVec.and_self,
    ⟨[.flags], rfl, fun k hk h => .inl (by simpa using flagSample_keeps (stickyBits_sticky hk) h _ _)⟩,
    fun h => by simpa [State.noReentry] using h⟩

theorem keeps_portFlagClear (mask : Word) : Keeps w (portFlagClear mask) := by
  refine .of_ran fun s => ⟨rfl, rfl, fun _ => BitVec.and_self, ⟨[.flagClear mask], rfl, fun k _ h => ?_⟩, id⟩
  cases hm : mask.getLsbD k with
  | true => exact .inr ⟨mask, by simp, hm⟩
  | false => exact .inl (flagsCleared_keeps hm h)

theorem keeps_portIrqEnable (mask : Word) : Keeps w (portIrqEnable mask) :=
  .of_ran fun _ => ⟨rfl, rfl, fun _ => BitVec.and_self, .of_eq [_] rfl rfl, id⟩

theorem keeps_portIrqDisable (mask : Word) : Keeps w (portIrqDisable mask) :=
  .of_ran fun _ => ⟨rfl, rfl, fun _ => BitVec.and_self, .of_eq [_] rfl rfl, id⟩

theorem keeps_landDma (n : Nat) : Keeps w (landDma n) := by
  refine .plain fun s => ?_
  obtain ⟨m, ds, k, e, -⟩ := landDma_spec n s
  exact ⟨_, _, e, rfl, rfl, rfl, rfl, [], rfl⟩

/-! ### Writes of the handle that are no settings -/

theorem keeps_withGlobal (g : GlobalState) : Keeps w (updH (·.withGlobal g)) :=
  .updH (fun _ => rfl) fun _ _ => BitVec.and_self
theorem keeps_withContext (c : BitVec 4) : Keeps w (updH (·.withContext c)) :=
  .updH (fun _ => rfl) fun _ _ => BitVec.and_self
theorem keeps_withIdent (i : IdentState) : Keeps w (updH (·.withIdent i)) :=
  .updH (fun _ => rfl) fun _ _ => BitVec.and_self
theorem keeps_withRemaining (v : Word) : Keeps w (updH (·.withRemaining v)) :=
  .updH (fun _ => rfl) fun _ _ => BitVec.and_self
theorem keeps_withPhase (reg : RegAddr) (buf rem : Word) (n : Nat) : Keeps w (updH (·.withPhase reg buf rem n)) :=
  .updH (fun _ => rfl) fun _ _ => BitVec.and_self
theorem keeps_orErrors (code : Word) : Keeps w (updH (·.orErrors code)) :=
  .updH (fun _ => rfl) fun _ _ => or_keeps _ _

end

end Sys2Proof.Machine
end

section
/-! Every piece of the handler and every request keeps what its footprint says, in every state. -/

namespace Sys2Proof.Machine

variable {w : Footprint}

/-! ### Card registers and the callbacks -/

theorem keeps_rd52 {pt : Act Unit} (h : Keeps w pt) (fn : Fn) (addr : RegAddr) : Keeps w (rd52 pt fn addr) :=
  .via h (keeps_portCmd _ _)

theorem keeps_wr52 {pt : Act Unit} (h : Keeps w pt) (fn : Fn) (addr : RegAddr) (v : Byte) :
    Keeps w (wr52 pt fn addr v) :=
  .bind (.via h (keeps_portCmd _ _)) fun _ => .pure _

theorem keeps_rmw52 {pt : Act Unit} (h : Keeps w pt) (fn : Fn) (addr : RegAddr) (clear set : Byte) :
    Keeps w (rmw52 pt fn addr clear set) :=
  .bind (keeps_rd52 h _ _) fun _ => .ite (keeps_wr52 h _ _ _) (.pure _)

theorem keeps_noPoint : Keeps w noPoint := .pure _

/-- One request of a callback stops the run, or is answered; with no callback's request there is none. -/
theorem ran_submitDuring (rs : List Instr) (s : State) :
    match submitDuring rs s with
    | .ok r => Ran w s r.2
    | .error _ => rs ≠ [] := by
  induction rs generalizing s with
  | nil => exact .refl s
  | cons i r ih =>
    simp only [submitDuring, bind_apply]
    rcases secondRequest_spec i s with e | e <;> rw [e]
    · exact List.cons_ne_nil _ _
    · have busy : Ran w s (s.answered [stBusy]) := (keeps_respond stBusy []).ran rfl
      have := ih (s.answered [stBusy])
      dsimp only at this ⊢
      split at this
      · rename_i hr
        rw [hr]
        exact busy.trans this
      · rename_i hr
        rw [hr]
        exact List.cons_ne_nil _ _

theorem keeps_emit (k : EventKind) : Keeps w (emit submitDuring k) := by
  refine .bind (.of_ran fun s => ⟨rfl, rfl, fun _ => BitVec.and_self, .of_eq [_] rfl rfl, id⟩) fun _ => .of_ran fun s => ?_
  simp only [runCallback, bind_apply, get_apply, ite_run, pure_apply, upd_apply]
  by_cases hk : s.h.slot k = 0
  · rw [if_pos hk]
    exact .refl s
  · rw [if_neg hk]
    have used : Ran w s { s with env := s.env.afterCallback } :=
      ⟨rfl, rfl, fun _ => BitVec.and_self, .of_eq [] rfl rfl, fun h rs hrs => h rs (List.mem_of_mem_tail hrs)⟩
    have := ran_submitDuring (w := w) s.env.submission { s with env := s.env.afterCallback }
    split at this
    · rename_i hr
      rw [hr]
      exact used.trans this
    · rename_i hr
      rw [hr]
      refine fun _ hn => this ?_
      cases hs : s.env.callbackScript with
      | nil => simp [Env.submission, hs]
      | cons rs _ => simpa [Env.submission, hs] using hn rs (by simp [hs])

theorem keeps_emitAll : ∀ ks, Keeps w (emitAll submitDuring ks)
  | [] => .pure _
  | k :: ks => .bind (keeps_emit k) fun _ => keeps_emitAll ks

/-! ### The handler -/

theorem keeps_dispatch : Keeps w dispatch :=
  .get fun _ => .ite (.pure _) (.ite (.pure _) (.bind (keeps_rd52 keeps_noPoint _ _) fun _ =>
    .ite (.pure _) (.bind (keeps_orErrors _) fun _ => .pure _)))

theorem keeps_dropDma {pt : Act Unit} (h : Keeps w pt) : Keeps w (dropDma pt) := by
  have : Keeps w (do
      let s ← get
      if ctxIsDma s.h.context then do
        via pt portDmaTeardown
        landDma s.h.unsettled
      else pure () : Act Unit) :=
    .get fun s => .ite (.bind (.via h keeps_portDmaTeardown) fun _ => keeps_landDma _) (.pure _)
  intro s u hu
  have := this s u hu
  simp only [bind_apply, get_apply, ite_run, pure_apply] at this
  simp only [dropDma, bind_apply]
  exact this

theorem keeps_dmaAbort {pt : Act Unit} (h : Keeps w pt) (code : Word) : Keeps w (dmaAbort pt code) :=
  .bind (.via h (keeps_portIrqDisable _)) fun _ => .bind (.via h keeps_portDpathDisable) fun _ =>
    .bind (.via h keeps_portDmaTeardown) fun _ => .get fun _ => .bind (keeps_landDma _) fun _ =>
    .bind (.via h (keeps_portFlagClear _)) fun _ => .bind (keeps_orErrors _) fun _ =>
    .bind (keeps_withRemaining _) fun _ => .bind (keeps_withContext _) fun _ => keeps_withGlobal _

theorem keeps_startPhase {pt : Act Unit} (h : Keeps w pt) (rw : Bit) (reg : RegAddr) (buf rem : Word) :
    Keeps w (startPhase pt rw reg buf rem) :=
  .get fun _ => .bind (keeps_withPhase _ _ _ _) fun _ => .bind (.via h (keeps_portDpathConfig _ _ _ _ _)) fun _ =>
    .bind (.via h (keeps_portDmaProgram _ _)) fun _ => .bind (.via h keeps_portDpathEnable) fun _ =>
    .bind (.via h (keeps_portCmd _ _)) fun _ =>
    .ite (.bind (.via h (keeps_portIrqEnable _)) fun _ => .pure _) (.bind (keeps_dmaAbort h _) fun _ => .pure _)

theorem keeps_onDataError (sample : Word) : Keeps w (onDataError sample) :=
  .bind (keeps_portIrqDisable _) fun _ => .bind keeps_portDpathDisable fun _ =>
    .bind (keeps_dropDma keeps_noPoint) fun _ => .bind (keeps_orErrors _) fun _ =>
    .bind (keeps_withRemaining _) fun _ => .bind (keeps_withContext _) fun _ => keeps_withGlobal _

theorem keeps_onDataComplete : Keeps w onDataComplete :=
  .get fun _ => .ite
    (.bind (keeps_portIrqDisable _) fun _ => .bind keeps_portDpathDisable fun _ => .bind keeps_portDmaTeardown fun _ =>
      .bind (keeps_landDma _) fun _ => .ite
        (.bind (keeps_withContext _) fun _ => .bind (keeps_withGlobal _) fun _ => .pure _)
        (.bind (keeps_startPhase keeps_noPoint _ _ _ _) fun _ => .pure _))
    (.stop (by decide))

theorem keeps_transferPart (sample : Word) : Keeps w (transferPart sample) :=
  .ite (.bind (keeps_onDataError _) fun _ => .pure _) (.ite keeps_onDataComplete (.pure _))

theorem keeps_serveInterrupt : Keeps w serveInterrupt :=
  .get fun _ => .ite (.pure _) (.bind keeps_portFlags fun _ => .ite (.pure _)
    (.bind (keeps_portFlagClear _) fun _ => .ite
      (.bind keeps_dispatch fun _ => .bind (keeps_transferPart _) fun _ => .pure _)
      (.bind (.pure _) fun _ => .bind (keeps_transferPart _) fun _ => .pure _)))

theorem keeps_takeInterrupt : Keeps w (takeInterrupt submitDuring) :=
  .bind keeps_serveInterrupt fun _ => keeps_emitAll _

theorem keeps_atPoint (q : IrqPoint) (rest : List IrqPoint) : Keeps w (upd (·.atPoint q rest)) :=
  .of_ran fun _ => ⟨rfl, rfl, fun _ => BitVec.and_self,
    ⟨[], rfl, fun _ hk h => .inl (flagSample_keeps (stickyBits_sticky hk) h _ _)⟩, id⟩

theorem keeps_irqRun : ∀ q, Keeps w (irqRun q)
  | [] => .pure _
  | q :: rest => .bind (keeps_atPoint q rest) fun _ => .ite
    (.get fun _ => .ite (.bind keeps_takeInterrupt fun _ => keeps_irqRun rest) (keeps_irqRun rest)) (.pure _)

/-- An interruption point, whatever the handler does at it. -/
theorem keeps_irqPoint : Keeps w irqPoint := fun s t ht => keeps_irqRun t.env.irqSchedule s t ht

theorem keeps_point {α : Type} {p : Act α} (h : Keeps w p) : Keeps w (via irqPoint p) := .via keeps_irqPoint h

end Sys2Proof.Machine
end

section
/-! What every request keeps, one lemma per body, and the statement on who writes what (O59). -/

namespace Sys2Proof.Machine

variable {w : Footprint}

/-! ### Ends of operations -/

theorem keeps_raiseErr (code : Word) : Keeps w (raiseErr code) :=
  .bind (keeps_orErrors _) fun _ => keeps_respond _ _

theorem keeps_idleOk (vals : List Word) : Keeps w (idleOk vals) :=
  .bind (keeps_withGlobal _) fun _ => keeps_respond _ _

theorem keeps_idleError (err : Word) : Keeps w (idleError err) :=
  .bind (keeps_withGlobal _) fun _ => keeps_raiseErr _

/-- A write of the configuration alone. -/
theorem keeps_cfg (hc : w.cfg = true) (f : Handle → Cfg) : Keeps w (updH fun h => h.withCfg (f h)) :=
  .updH (fun _ => by simp [Footprint.rest, hc, Handle.withCfg]) fun _ _ => BitVec.and_self

theorem keeps_withFnIrq (hf : w.fnIrq = true) (m : Byte) (c : BitVec 4) : Keeps w (updH (·.withFnIrq m c)) :=
  .updH (fun _ => by simp [Footprint.rest, hf, Handle.withFnIrq]) fun _ _ => BitVec.and_self

/-! ### Transfers -/

theorem keeps_directBody (rw raw : Bit) (fn : Fn) (addr : RegAddr) (data : Byte) :
    Keeps w (directBody rw raw fn addr data) :=
  .bind (keeps_withGlobal _) fun _ => .bind (keeps_point (keeps_portCmd _ _)) fun _ =>
    .ite (keeps_idleOk _) (keeps_idleError _)

/-- Bytes stored in host memory alone. -/
theorem keeps_store (f : State → Memory) : Keeps w (upd fun s => { s with mem := f s }) :=
  .plain fun _ => ⟨_, _, rfl, rfl, rfl, rfl, rfl, [], rfl⟩

theorem keeps_pumpInWord (p : Word) (k : Nat) : Keeps w (pumpInWord p k) :=
  .bind (keeps_point keeps_portFifoRead) fun _ => keeps_store _

theorem keeps_pumpOutWord (p : Word) (k : Nat) : Keeps w (pumpOutWord p k) :=
  .get fun _ => keeps_point (keeps_portFifoWrite _)

theorem keeps_pumpFlags (sample : Word) (left : Nat) : Keeps w (pumpFlags sample left) :=
  .ite (.bind (keeps_orErrors _) fun _ => .pure _) (.ite (.pure _) (.stop (by decide)))

section
variable {word : Word → Nat → Act Unit} (hw : ∀ p k, Keeps w (word p k))
include hw

theorem keeps_pumpBatch : ∀ n p, Keeps w (pumpBatch word n p)
  | 0, _ => .pure _
  | n + 1, _ => .bind (hw _ _) fun _ => keeps_pumpBatch n _

theorem keeps_pumpMove (fast slow : Bool) (p : Word) (left : Nat) : Keeps w (pumpMove word fast slow p left) :=
  .ite (.bind (keeps_pumpBatch hw _ _) fun _ => .pure _) (.ite (.bind (hw _ _) fun _ => .pure _) (.pure _))

theorem keeps_pumpLoop (fast slow : Word → Bool) (t0 tmo : Word) :
    ∀ n p left, Keeps w (pumpLoop word fast slow t0 tmo n p left)
  | 0, _, _ => .stop (by decide)
  | n + 1, _, _ => .bind (keeps_point keeps_portFlags) fun _ => .ite (keeps_pumpFlags _ _)
      (.bind (keeps_pumpMove hw _ _ _ _) fun _ => .bind (keeps_point keeps_portTick) fun _ =>
        .ite (.bind (keeps_orErrors _) fun _ => .pure _) (keeps_pumpLoop fast slow t0 tmo n _ _))

end

theorem keeps_pumpRead (buf : Word) (len : Nat) (tmo : Word) : Keeps w (pumpRead buf len tmo) :=
  .bind (keeps_point keeps_portTick) fun _ => .get fun _ => keeps_pumpLoop keeps_pumpInWord _ _ _ _ _ _ _

theorem keeps_pumpWrite (buf : Word) (len : Nat) (tmo : Word) : Keeps w (pumpWrite buf len tmo) :=
  .bind (keeps_point keeps_portTick) fun _ => .get fun _ => keeps_pumpLoop keeps_pumpOutWord _ _ _ _ _ _ _

theorem keeps_pollCleanUp : Keeps w pollCleanUp :=
  .bind (keeps_point (keeps_portFlagClear _)) fun _ => .bind (keeps_point keeps_portDpathDisable) fun _ =>
    .bind (keeps_withContext _) fun _ => keeps_withGlobal _

theorem keeps_unsettleRead (before : Memory) (buf : Word) (size : Nat) : Keeps w (unsettleRead before buf size) := by
  refine .plain fun s => ?_
  obtain ⟨-, k, e⟩ := Env.freeBytes_spec (Config.freeCount s.env.drawn % (size + 1)) { s.env with drawn := s.env.drawn + 1 }
  refine ⟨_, _, rfl, rfl, rfl, ?_, ?_, [], rfl⟩ <;> simp [e]

theorem keeps_pollBody {pump : Word → Nat → Word → Act PumpEnd} (hp : ∀ a b c, Keeps w (pump a b c))
    {failed : Nat → Act Unit} (hf : ∀ n, Keeps w (failed n)) (rw : Bit) (ctx : BitVec 4) (bm opc : Bit) (fn : Fn)
    (addr : RegAddr) (buf size tmo : Word) : Keeps w (pollBody rw ctx pump failed bm opc fn addr buf size tmo) :=
  .get fun _ => .ite (keeps_respond _ _) (.bind (keeps_withGlobal _) fun _ => .bind (keeps_withContext _) fun _ =>
    .bind (keeps_point (keeps_portDpathConfig _ _ _ _ _)) fun _ => .bind (keeps_point keeps_portDpathEnable) fun _ =>
    .bind (keeps_point (keeps_portCmd _ _)) fun _ => .ite
      (.bind (hp _ _ _) fun _ => .bind keeps_pollCleanUp fun _ =>
        .ite (.bind (hf _) fun _ => keeps_respond _ _) (keeps_respond _ _))
      (.bind (keeps_orErrors _) fun _ => .bind keeps_pollCleanUp fun _ => .bind (hf _) fun _ => keeps_respond _ _))

theorem keeps_dmaBody (hd : w.desc = true) (rw : Bit) (ctx : BitVec 4) (bm opc : Bit) (fn : Fn) (addr : RegAddr)
    (buf size : Word) : Keeps w (dmaBody rw ctx bm opc fn addr buf size) :=
  .get fun _ => .ite (keeps_respond _ _) (.bind (keeps_withGlobal _) fun _ => .bind (keeps_withContext _) fun _ =>
    .bind (.updH (fun _ => by simp [Footprint.rest, hd, Handle.withContDesc]) fun _ _ => BitVec.and_self) fun _ =>
    .bind (keeps_startPhase keeps_irqPoint _ _ _ _) fun _ => keeps_respond _ _)

/-! ### Functions -/

theorem keeps_readRegs : ∀ n addr, Keeps w (readRegs n addr)
  | 0, _ => .pure _
  | n + 1, _ => .bind (keeps_rd52 keeps_irqPoint _ _) fun _ => .ite
      (.bind (keeps_readRegs n _) fun r => match r with
        | .ok _ => .pure _
        | .error _ => .pure _) (.pure _)

theorem keeps_snapshotBody (n : Nat) (addr : RegAddr) : Keeps w (snapshotBody n addr) :=
  .bind (keeps_withGlobal _) fun _ => .bind (keeps_readRegs _ _) fun r => match r with
    | .ok _ => keeps_idleOk _
    | .error _ => keeps_idleError _

theorem rest_enableFn (hf : w.fnIrq = true) (fn : Fn) (h : Handle) : w.rest (h.enableFn fn) = w.rest h := by
  unfold Handle.enableFn
  split <;> simp [Footprint.rest, hf, Handle.withFnIrq]

theorem rest_disableFn (hf : w.fnIrq = true) (fn : Fn) (h : Handle) : w.rest (h.disableFn fn) = w.rest h := by
  unfold Handle.disableFn
  split <;> simp [Footprint.rest, hf, Handle.withFnIrq]

theorem enableFn_lastErrorCodes (h : Handle) (fn : Fn) : (h.enableFn fn).lastErrorCodes = h.lastErrorCodes := by
  unfold Handle.enableFn
  split <;> rfl

theorem disableFn_lastErrorCodes (h : Handle) (fn : Fn) : (h.disableFn fn).lastErrorCodes = h.lastErrorCodes := by
  unfold Handle.disableFn
  split <;> rfl

theorem keeps_enableFn (hf : w.fnIrq = true) (fn : Fn) : Keeps w (updH (·.enableFn fn)) :=
  .updH (rest_enableFn hf fn) fun _ h => by rw [enableFn_lastErrorCodes, BitVec.and_self]

theorem keeps_disableFn (hf : w.fnIrq = true) (fn : Fn) : Keeps w (updH (·.disableFn fn)) :=
  .updH (rest_disableFn hf fn) fun _ h => by rw [disableFn_lastErrorCodes, BitVec.and_self]

theorem keeps_enFnIrqBody (hf : w.fnIrq = true) (fn : Fn) : Keeps w (enFnIrqBody fn) :=
  .ite (keeps_respond _ _) (.bind (keeps_withGlobal _) fun _ => .bind (keeps_rd52 keeps_irqPoint _ _) fun _ => .ite
    (.get fun _ => .bind (keeps_wr52 keeps_irqPoint _ _ _) fun _ => .ite
      (.bind (keeps_enableFn hf fn) fun _ => .bind (keeps_point (keeps_portIrqEnable _)) fun _ =>
        .bind (keeps_point (keeps_portSdioOp _)) fun _ => keeps_idleOk _)
      (keeps_idleError _))
    (keeps_idleError _))

theorem keeps_bookDisabled (hf : w.fnIrq = true) (fn : Fn) : Keeps w (bookDisabled fn) :=
  .get fun _ => .ite
    (.bind (keeps_point (keeps_disableFn hf fn)) fun _ => .bind (keeps_portIrqDisable _) fun _ =>
      keeps_point (keeps_portSdioOp _))
    (keeps_disableFn hf fn)

theorem keeps_disFnIrqBody (hf : w.fnIrq = true) (fn : Fn) : Keeps w (disFnIrqBody fn) :=
  .ite (keeps_respond _ _) (.bind (keeps_withGlobal _) fun _ => .bind (keeps_rd52 keeps_irqPoint _ _) fun _ => .ite
    (.bind (keeps_wr52 keeps_irqPoint _ _ _) fun _ => .ite
      (.bind (keeps_bookDisabled hf fn) fun _ => keeps_idleOk _) (keeps_idleError _))
    (keeps_idleError _))

theorem keeps_readyPoll (fn : Fn) (t0 : Word) : ∀ n, Keeps w (readyPoll fn t0 n)
  | 0 => .stop (by decide)
  | n + 1 => .bind (keeps_rd52 keeps_irqPoint _ _) fun _ => .ite
      (.ite (keeps_idleOk _) (.bind (keeps_point keeps_portTick) fun _ => .get fun _ => .ite
        (.bind (keeps_orErrors _) fun _ => .bind (keeps_withGlobal _) fun _ => keeps_respond _ _)
        (keeps_readyPoll fn t0 n)))
      (keeps_idleError _)

theorem keeps_enFnBody (fn : Fn) : Keeps w (enFnBody fn) :=
  .ite (keeps_respond _ _) (.bind (keeps_withGlobal _) fun _ => .bind (keeps_rmw52 keeps_irqPoint _ _ _ _) fun _ =>
    .ite (.bind (keeps_point keeps_portTick) fun _ => .get fun _ => keeps_readyPoll _ _ _) (keeps_idleError _))

theorem keeps_rmwBody (addr : RegAddr) (clear set : Byte) : Keeps w (rmwBody addr clear set) :=
  .bind (keeps_withGlobal _) fun _ => .bind (keeps_rmw52 keeps_irqPoint _ _ _ _) fun _ =>
    .ite (keeps_idleOk _) (keeps_idleError _)

theorem keeps_abortActiveBody (fn : Fn) : Keeps w (abortActiveBody fn) :=
  .bind (keeps_rmw52 keeps_irqPoint _ _ _ _) fun _ => keeps_respond _ _

theorem keeps_irqBody : Keeps w irqBody := .bind keeps_takeInterrupt fun _ => keeps_respond _ _

theorem rest_withCallback (hs : w.slots = true) (fn : Fn) (sel : BitVec 4) (cb : Word) (h : Handle) :
    w.rest (h.withCallback fn sel cb) = w.rest h ∧ (h.withCallback fn sel cb).lastErrorCodes = h.lastErrorCodes := by
  unfold Handle.withCallback
  split <;> simp [Footprint.rest, hs]

theorem keeps_regCallbackBody (hs : w.slots = true) (fn : Fn) (sel : BitVec 4) (cb : Word) :
    Keeps w (regCallbackBody fn sel cb) :=
  .ite (keeps_respond _ _) (.bind (.updH (fun h => (rest_withCallback hs fn sel cb h).1)
    fun _ h => by rw [(rest_withCallback hs fn sel cb h).2, BitVec.and_self]) fun _ => keeps_respond _ _)

/-! ### Identification and configuration -/

theorem keeps_identFail (err : Word) : Keeps w (identFail err) :=
  .bind (keeps_orErrors _) fun _ => .bind (keeps_withIdent _) fun _ => .bind (keeps_withGlobal _) fun _ => .pure _

theorem keeps_identCmd (idx : BitVec 6) (arg : Word) {next : Word → Act Bool} (h : ∀ r, Keeps w (next r)) :
    Keeps w (identCmd idx arg next) :=
  .bind (keeps_point (keeps_portCmd _ _)) fun _ => .ite (h _) (keeps_identFail _)

theorem keeps_identPower (hc : w.cfg = true) (k : Word) : Keeps w (identPower k) :=
  .bind (keeps_withIdent _) fun _ => .bind (keeps_defaultDiv _) fun _ =>
    .bind (keeps_point (keeps_portBusConfig _ _ _ _ _)) fun _ => .bind (keeps_cfg hc _) fun _ =>
    .bind (keeps_point (keeps_portBusPower _)) fun _ => .bind (keeps_settleWait _) fun _ => .get fun _ =>
    keeps_point (keeps_portDelayCycles _ _)

theorem keeps_identVoltage (r2 : Word) {next : Act Bool} (h : Keeps w next) : Keeps w (identVoltage r2 next) :=
  .ite (keeps_identCmd _ _ fun _ => .get fun _ => .ite (.bind (keeps_point (keeps_emit _)) fun _ => h) h) h

theorem keeps_identSecond (r : Word) {next : Act Bool} (h : Keeps w next) : Keeps w (identSecond r next) :=
  .ite h (.get fun _ => keeps_identCmd _ _ fun _ => keeps_identVoltage _ h)

theorem keeps_identSelect (rca : BitVec 16) : Keeps w (identSelect rca) :=
  keeps_identCmd _ _ fun _ => .bind (keeps_withIdent _) fun _ => .pure _

theorem keeps_identRca : ∀ n, Keeps w (identRca n)
  | 0 => keeps_identFail _
  | n + 1 => .bind (keeps_point (keeps_portCmd _ _)) fun _ => .ite
      (.bind (keeps_withIdent _) fun _ => keeps_identSelect _)
      (.ite (keeps_identFail _) (.ite (keeps_identFail _)
        (.bind (keeps_point (keeps_portDelayMs _)) fun _ => keeps_identRca n)))

theorem keeps_ident (hc : w.cfg = true) (k : Word) : Keeps w (ident k) :=
  .bind (keeps_identPower hc _) fun _ => keeps_identCmd _ _ fun _ => keeps_identCmd _ _ fun _ =>
    keeps_identSecond _ (.bind (keeps_withIdent _) fun _ => .get fun _ => keeps_identRca _)

theorem keeps_withDivider (hz : Word) {next : Word → Word → Act Unit} (h : ∀ k d, Keeps w (next k d)) :
    Keeps w (withDivider hz next) :=
  .bind (keeps_point keeps_portClockHz) fun _ => .get fun _ => .ite (keeps_respond _ _)
    (.ite (keeps_respond _ _) (.ite (keeps_raiseErr _) (h _ _)))

theorem keeps_toCardRemoved (hc : w.cfg = true) (hf : w.fnIrq = true) : Keeps w toCardRemoved :=
  .bind (keeps_point (keeps_portIrqDisable _)) fun _ => .bind (keeps_point keeps_portDpathDisable) fun _ =>
    .bind (keeps_dropDma keeps_irqPoint) fun _ => .bind (keeps_point (keeps_portSdioOp _)) fun _ =>
    .bind (keeps_point (keeps_portFlagClear _)) fun _ => .bind (keeps_point keeps_portClockHz) fun _ =>
    .bind (keeps_defaultDiv _) fun _ => .bind (keeps_point (keeps_portBusConfig _ _ _ _ _)) fun _ =>
    .bind (keeps_cfg hc _) fun _ => .bind (keeps_withContext _) fun _ => .bind (keeps_withRemaining _) fun _ =>
    .bind (keeps_withFnIrq hf _ _) fun _ => .bind (keeps_withIdent _) fun _ => keeps_withGlobal _

theorem keeps_configure (hc : w.cfg = true) (hf : w.fnIrq = true) (hwfc psave edge : Bit) (width : BitVec 2)
    (hz : Word) : Keeps w (configure hwfc psave edge width hz) :=
  .ite (keeps_respond _ _) (keeps_withDivider _ fun _ _ => .bind (keeps_ident hc _) fun _ => .ite
    (.bind (keeps_point (keeps_portBusConfig _ _ _ _ _)) fun _ => .bind (keeps_cfg hc _) fun _ =>
      .bind (keeps_wr52 keeps_irqPoint _ _ _) fun _ => .ite (keeps_idleOk _)
        (.bind (keeps_orErrors _) fun _ => .bind (keeps_toCardRemoved hc hf) fun _ => keeps_respond _ _))
    (keeps_respond _ _))

theorem keeps_removalBody (hc : w.cfg = true) (hf : w.fnIrq = true) : Keeps w removalBody :=
  .bind (keeps_toCardRemoved hc hf) fun _ => keeps_respond _ _

theorem keeps_setBusWidthBody (hc : w.cfg = true) (val : Word) : Keeps w (setBusWidthBody val) :=
  .ite (keeps_respond _ _) (.bind (keeps_withGlobal _) fun _ => .bind (keeps_wr52 keeps_irqPoint _ _ _) fun _ => .ite
    (.get fun _ => .bind (keeps_point (keeps_portBusConfig _ _ _ _ _)) fun _ => .bind (keeps_cfg hc _) fun _ =>
      keeps_idleOk _)
    (keeps_idleError _))

theorem keeps_setClockFreqBody (hc : w.cfg = true) (val : Word) : Keeps w (setClockFreqBody val) :=
  keeps_withDivider _ fun _ _ => .get fun _ => .bind (keeps_point (keeps_portBusConfig _ _ _ _ _)) fun _ =>
    .bind (keeps_cfg hc _) fun _ => keeps_respond _ _

theorem keeps_getClockFreqBody : Keeps w getClockFreqBody :=
  .bind (keeps_point keeps_portClockHz) fun _ => .get fun _ => keeps_respond _ _

theorem keeps_writeCardBlockSize (fn : Fn) (val : Word) : Keeps w (writeCardBlockSize fn val) :=
  .bind (keeps_wr52 keeps_irqPoint _ _ _) fun _ => .ite (keeps_wr52 keeps_irqPoint _ _ _) (.pure _)

theorem keeps_setBlockSizeBody (hb : w.blockSize = true) (fn : Fn) (val : Word) : Keeps w (setBlockSizeBody fn val) := by
  have store : ∀ e : Word, Keeps w (if e = 0 then (do updH (·.withBlockSize val); idleOk []) else idleError e) :=
    fun _ => .ite (.bind (.updH (fun _ => by simp [Footprint.rest, hb, Handle.withBlockSize])
      fun _ _ => BitVec.and_self) fun _ => keeps_idleOk _) (keeps_idleError _)
  exact .get fun _ => .ite (keeps_respond _ _) (.bind (keeps_withGlobal _) fun _ => .ite
    (.bind (keeps_writeCardBlockSize _ _) store) (.bind (.pure _) store))

theorem keeps_setDataTimeoutBody (ht : w.timeout = true) (val : Word) : Keeps w (setDataTimeoutBody val) :=
  .bind (.updH (fun _ => by simp [Footprint.rest, ht, Handle.withDataTimeout]) fun _ _ => BitVec.and_self) fun _ =>
    keeps_respond _ _

/-! ### Creation and destruction -/

/-- The footprint of `INIT`: every setting. -/
def Footprint.all : Footprint := ⟨true, true, true, true, true, true, true, true, true⟩

theorem keeps_initBody (xcvr : Bit) (inst : Word) : Keeps .all (initBody xcvr inst) :=
  .bind (keeps_point (keeps_portIrqDisable _)) fun _ => .bind (keeps_point (keeps_portFlagClear _)) fun _ =>
    .bind (keeps_point keeps_portClockHz) fun _ => .bind (keeps_defaultDiv _) fun _ =>
    .bind (.updH (fun _ => rfl) fun h => nomatch h) fun _ => keeps_respond _ _

theorem keeps_deinitBody : Keeps { Footprint.all with ident := false } deinitBody :=
  .bind (keeps_point (keeps_portIrqDisable _)) fun _ => .bind (keeps_point keeps_portDpathDisable) fun _ =>
    .bind (keeps_dropDma keeps_irqPoint) fun _ => .bind (keeps_point (keeps_portSdioOp _)) fun _ =>
    .bind (keeps_point (keeps_portBusPower _)) fun _ => .bind (keeps_point (keeps_portFlagClear _)) fun _ =>
    .bind keeps_unreadClock fun _ => .bind (keeps_defaultDiv _) fun _ =>
    .bind (.updH (fun _ => rfl) fun h => nomatch h) fun _ => keeps_respond _ _

end Sys2Proof.Machine
end

section
/-! Who writes what (O59, all but the continuation registers): the footprint of every request. -/

namespace Sys2Proof.Machine

/-- The settings each request may write (R21 to R24, R29, R42, R44, R45, R282). -/
def writes : Instr → Footprint
  | .init _ _ => .all
  | .deinit => { Footprint.all with ident := false }
  | .setConfig _ _ _ _ _ _ => { cfg := true, fnIrq := true }
  | .notifyInsertion _ _ _ _ _ _ => { cfg := true, fnIrq := true }
  | .notifyRemoval => { cfg := true, fnIrq := true }
  | .setBusWidth _ => { cfg := true }
  | .setClockFreq _ => { cfg := true }
  | .setBlockSize _ _ => { blockSize := true }
  | .setDataTimeout _ => { timeout := true }
  | .readExtDma _ _ _ _ _ _ => { desc := true }
  | .writeExtDma _ _ _ _ _ _ => { desc := true }
  | .regCallback _ _ _ => { slots := true }
  | .enFnIrq _ => { fnIrq := true }
  | .disFnIrq _ => { fnIrq := true }
  | _ => {}

/-- The footprint of a request in a state: it clears the error mask where it is one that does and passes the state check. -/
def footprint (i : Instr) (s : State) : Footprint := { writes i with errors := clearsErrors i s && accepts i s }

/-- What may come of a request in every state: it keeps what its footprint says, and stops for a callback's request only
where a callback submits one. -/
def Kept (i : Instr) (s : State) : Host.Outcome State Fault Refusal → Prop
  | .next t => Ran (footprint i s) s t
  | .fault f => f = .reentrantRequest → ¬s.noReentry
  | .refused _ => True

/-- A request keeps what its body keeps. -/
theorem kept_request {i : Instr} {body : Act Unit} {s : State}
    (hb : accepts i s = true → Keeps (footprint i s) body) : Kept i s (request i body s) := by
  cases hr : refusalOf i with
  | some r => rw [request_refused hr]; trivial
  | none =>
    cases ha : accepts i s with
    | false => rw [request_busy hr ha]; exact (keeps_respond stBusy []).ran (a := ()) rfl
    | true =>
      have cleared : Ran (footprint i s) s { s with
          h := { s.h with lastErrorCodes := if clearsErrors i s then 0 else s.h.lastErrorCodes } } := by
        refine ⟨rfl, rfl, fun hw => ?_, .of_eq [] rfl rfl, id⟩
        have hc : clearsErrors i s = false := by simpa [footprint, ha] using hw
        simp [hc]
      rw [request_runs hr ha, finish]
      have := hb ha s _ cleared
      split <;> rename_i e <;> rw [e] at this <;> exact this

theorem footprint_init {x : Bit} {n : Word} {s : State} (h : accepts (.init x n) s = true) :
    .all = footprint (.init x n) s := by
  rw [footprint, h]
  rfl

theorem footprint_deinit {s : State} (h : accepts .deinit s = true) :
    { Footprint.all with ident := false } = footprint .deinit s := by
  rw [footprint, h]
  rfl

/-- Every request keeps what its footprint says, in every state and with interrupts anywhere. -/
theorem kept_exec (i : Instr) (s : State) : Kept i s (exec i s) := by
  cases i with
  | setSpeedMode | resetCard | dlybConfig | dlybCalibrate => trivial
  | init => exact kept_request fun ha => footprint_init ha ▸ keeps_initBody _ _
  | deinit => exact kept_request fun ha => footprint_deinit ha ▸ keeps_deinitBody
  | setConfig | notifyInsertion => exact kept_request fun _ => keeps_configure rfl rfl _ _ _ _ _
  | notifyRemoval => exact kept_request fun _ => keeps_removalBody rfl rfl
  | setBusWidth => exact kept_request fun _ => keeps_setBusWidthBody rfl _
  | setClockFreq => exact kept_request fun _ => keeps_setClockFreqBody rfl _
  | setBlockSize => exact kept_request fun _ => keeps_setBlockSizeBody rfl _ _
  | setDataTimeout => exact kept_request fun _ => keeps_setDataTimeoutBody rfl _
  | getConfig | getBusWidth | getDataTimeout => exact kept_request fun _ => keeps_respond _ _
  | getClockFreq => exact kept_request fun _ => keeps_getClockFreqBody
  | readDirect | writeDirect => exact kept_request fun _ => keeps_directBody _ _ _ _ _
  | readExt => exact kept_request fun _ => keeps_pollBody keeps_pumpRead (keeps_unsettleRead _ _) _ _ _ _ _ _ _ _ _
  | writeExt => exact kept_request fun _ => keeps_pollBody keeps_pumpWrite (fun _ => .pure _) _ _ _ _ _ _ _ _ _
  | readExtDma | writeExtDma => exact kept_request fun _ => keeps_dmaBody rfl _ _ _ _ _ _ _ _
  | irqHandler => exact kept_request fun _ => keeps_irqBody
  | regCallback => exact kept_request fun _ => keeps_regCallbackBody rfl _ _ _
  | getCccr => exact kept_request fun _ => keeps_snapshotBody _ _
  | getFbr => exact kept_request fun _ => .ite (keeps_respond _ _) (keeps_snapshotBody _ _)
  | enFnIrq => exact kept_request fun _ => keeps_enFnIrqBody rfl _
  | disFnIrq => exact kept_request fun _ => keeps_disFnIrqBody rfl _
  | enFn => exact kept_request fun _ => keeps_enFnBody _
  | disFn => exact kept_request fun _ => .ite (keeps_respond _ _) (keeps_rmwBody _ _ _)
  | selFn => exact kept_request fun _ => keeps_rmwBody _ _ _
  | abortFn => exact kept_request fun _ => .ite (keeps_abortActiveBody _) (keeps_rmwBody _ _ _)

end Sys2Proof.Machine
end

section
/-! Operations with no terminal source enabled: the handle is known but for its error bits, and stays so at every
interruption point. -/

namespace Sys2Proof.Machine

/-- The handle with other error bits. -/
def Handle.withErrors (h : Handle) (e : Word) : Handle := { h with lastErrorCodes := e }

/-- The handle is `h` but for its error bits (R320), and memory is as `M` says. -/
structure At (h : Handle) (M : Memory → Prop) (t : State) : Prop where
  h : ∃ e, e &&& 0xFFFFFF00 = 0 ∧ t.h = h.withErrors e
  mem : M t.mem

/-- No terminal source is enabled. -/
def Handle.Masked (h : Handle) : Prop := h.irqMask &&& terminalFlags = 0

/-- A port action that writes neither the handle nor memory. -/
def Plain {α : Type} (p : Act α) : Prop := ∀ s, ∃ a t, p s = .ok (a, t) ∧ t.h = s.h ∧ t.mem = s.mem

section
variable {h : Handle} {M : Memory → Prop} {t u : State}

theorem At.masked (hm : h.Masked) (ht : At h M t) : t.masked := by
  obtain ⟨⟨e, -, hh⟩, -⟩ := ht
  rw [State.masked, hh]
  exact hm

theorem At.touched (ht : At h M t) (a : Touched t u) : At h M u := by
  obtain ⟨⟨e, he, hh⟩, hM⟩ := ht
  obtain ⟨⟨c, hc, hu⟩, hmem, -⟩ := a
  exact ⟨⟨e ||| c, low_or he hc, by rw [hu, hh]; rfl⟩, by rw [hmem]; exact hM⟩

theorem At.same (ht : At h M t) (hh : u.h = t.h) (hm : u.mem = t.mem) : At h M u :=
  ⟨by rw [hh]; exact ht.h, by rw [hm]; exact ht.mem⟩

end

theorem plain_portCmd (idx : BitVec 6) (arg : Word) : Plain (portCmd idx arg) := fun _ => ⟨_, _, rfl, rfl, rfl⟩
theorem plain_portFlags : Plain portFlags := fun _ => ⟨_, _, rfl, rfl, rfl⟩
theorem plain_portFlagClear (m : Word) : Plain (portFlagClear m) := fun _ => ⟨_, _, rfl, rfl, rfl⟩
theorem plain_portFifoRead : Plain portFifoRead := fun _ => ⟨_, _, rfl, rfl, rfl⟩
theorem plain_portFifoWrite (v : Word) : Plain (portFifoWrite v) := fun _ => ⟨_, _, rfl, rfl, rfl⟩
theorem plain_portDpathConfig (a b c : Word) (d : Dir) (m : Mode) : Plain (portDpathConfig a b c d m) :=
  fun _ => ⟨_, _, rfl, rfl, rfl⟩
theorem plain_portDpathEnable : Plain portDpathEnable := fun _ => ⟨_, _, rfl, rfl, rfl⟩
theorem plain_portDpathDisable : Plain portDpathDisable := fun _ => ⟨_, _, rfl, rfl, rfl⟩
theorem plain_portDmaProgram (a b : Word) : Plain (portDmaProgram a b) := fun _ => ⟨_, _, rfl, rfl, rfl⟩
theorem plain_portDmaTeardown : Plain portDmaTeardown := fun _ => ⟨_, _, rfl, rfl, rfl⟩
theorem plain_portBusPower (on : Bool) : Plain (portBusPower on) := fun _ => ⟨_, _, rfl, rfl, rfl⟩
theorem plain_portBusConfig (v : BitVec 2) (a b c : Bit) (d : Word) : Plain (portBusConfig v a b c d) :=
  fun _ => ⟨_, _, rfl, rfl, rfl⟩
theorem plain_portSdioOp (on : Bool) : Plain (portSdioOp on) := fun _ => ⟨_, _, rfl, rfl, rfl⟩
theorem plain_portClockHz : Plain portClockHz := fun _ => ⟨_, _, rfl, rfl, rfl⟩
theorem plain_portTick : Plain portTick := fun _ => ⟨_, _, rfl, rfl, rfl⟩
theorem plain_portDelayMs (n : Nat) : Plain (portDelayMs n) := fun _ => ⟨_, _, rfl, rfl, rfl⟩
theorem plain_portDelayCycles (n ms : Nat) : Plain (portDelayCycles n ms) := fun _ => ⟨_, _, rfl, rfl, rfl⟩
theorem plain_respond (st : Word) (vals : List Word) : Plain (respond st vals) := fun _ => ⟨_, _, rfl, rfl, rfl⟩
theorem plain_defaultDiv (k : Word) : Plain (defaultDiv k) := fun _ => ⟨_, _, rfl, rfl, rfl⟩
theorem plain_unreadClock : Plain unreadClock := fun _ => ⟨_, _, rfl, rfl, rfl⟩
theorem plain_settleWait (k : Word) : Plain (settleWait k) := fun _ => ⟨_, _, rfl, rfl, rfl⟩

section
variable {α : Type} {E : Fault → Prop} {h : Handle} {M : Memory → Prop}

theorem at_plain {p : Act α} (hp : Plain p) : Triple E (At h M) p fun _ => At h M := by
  intro s hs
  obtain ⟨a, t, e, hh, hm⟩ := hp s
  rw [e]
  exact hs.same hh hm

theorem at_updH {f : Handle → Handle} (hf : ∀ e, f (h.withErrors e) = (f h).withErrors e) :
    Triple E (At h M) (updH f) fun _ => At (f h) M := by
  refine .updH fun s ⟨⟨e, he, hh⟩, hM⟩ => ⟨⟨e, he, ?_⟩, hM⟩
  rw [hh, hf]

theorem at_orErrors {c : Word} (hc : c &&& 0xFFFFFF00 = 0) : Triple E (At h M) (updH (·.orErrors c)) fun _ => At h M := by
  refine .updH fun s ⟨⟨e, he, hh⟩, hM⟩ => ⟨⟨e ||| c, low_or he hc, ?_⟩, hM⟩
  rw [hh]
  rfl

theorem at_portIrqEnable (m : Word) :
    Triple E (At h M) (portIrqEnable m) fun _ => At (h.withIrqMask (h.irqMask ||| m)) M :=
  .upd fun s ⟨⟨e, he, hh⟩, hM⟩ => ⟨⟨e, he, by simp only [hh]; rfl⟩, hM⟩

theorem at_portIrqDisable (m : Word) :
    Triple E (At h M) (portIrqDisable m) fun _ => At (h.withIrqMask (h.irqMask &&& ~~~m)) M :=
  .upd fun s ⟨⟨e, he, hh⟩, hM⟩ => ⟨⟨e, he, by simp only [hh]; rfl⟩, hM⟩

theorem at_raiseErr {c : Word} (hc : c &&& 0xFFFFFF00 = 0) : Triple E (At h M) (raiseErr c) fun _ => At h M :=
  .bind (at_orErrors hc) fun _ => at_plain (plain_respond _ _)

theorem at_idleOk (vals : List Word) : Triple E (At h M) (idleOk vals) fun _ => At (h.withGlobal .idle) M :=
  .bind (at_updH fun _ => rfl) fun _ => at_plain (plain_respond _ _)

theorem at_idleError (err : Word) : Triple E (At h M) (idleError err) fun _ => At (h.withGlobal .idle) M :=
  .bind (at_updH fun _ => rfl) fun _ => at_raiseErr (errmap_low _)

/-- What landing the engine's bytes may do to memory. -/
def Lands (h : Handle) (n : Nat) (m m' : Memory) : Prop :=
  (m.wf = true → m'.wf = true) ∧
    (∀ x, (∀ j < n, x ≠ (h.pXferBuff + BitVec.ofNat 32 j).toNat) → m'.read x = m.read x) ∧
    ((ctxIsDma h.context && ctxIsRead h.context) = false → m' = m)

theorem at_landDma {n : Nat} (hM : ∀ m m', M m → Lands h n m m' → M m') :
    Triple E (At h M) (landDma n) fun _ => At h M := by
  intro s hs
  obtain ⟨m, ds, k, e, h1, h2, h3⟩ := landDma_spec n s
  rw [e]
  obtain ⟨⟨c, hc, hh⟩, hm⟩ := hs
  rw [hh] at h2 h3
  exact ⟨⟨c, hc, hh⟩, hM _ _ hm ⟨h1, h2, h3⟩⟩

variable (hE : E .reentrantRequest)
include hE

theorem at_irqPoint (hm : h.Masked) : Triple E (At h M) irqPoint fun _ => At h M := by
  intro s hs
  rcases irqPoint_masked (hs.masked hm) with e | ⟨t, e, ht⟩ <;> rw [e]
  · exact hE
  · exact hs.touched ht

theorem at_point {p : Act α} {Q : α → State → Prop} (hm : h.Masked) (hp : Triple E (At h M) p Q) :
    Triple E (At h M) (via irqPoint p) Q := .via (at_irqPoint hE hm) hp

theorem at_via {p : Act α} (hm : h.Masked) (hp : Plain p) : Triple E (At h M) (via irqPoint p) fun _ => At h M :=
  at_point hE hm (at_plain hp)

theorem at_rd52 (hm : h.Masked) (fn : Fn) (addr : RegAddr) : Triple E (At h M) (rd52 irqPoint fn addr) fun _ => At h M :=
  at_via hE hm (plain_portCmd _ _)

theorem at_wr52 (hm : h.Masked) (fn : Fn) (addr : RegAddr) (v : Byte) :
    Triple E (At h M) (wr52 irqPoint fn addr v) fun _ => At h M :=
  .bind (at_via hE hm (plain_portCmd _ _)) fun _ => .pure fun _ => id

theorem at_rmw52 (hm : h.Masked) (fn : Fn) (addr : RegAddr) (clear set : Byte) :
    Triple E (At h M) (rmw52 irqPoint fn addr clear set) fun _ => At h M :=
  .bind (at_rd52 hE hm _ _) fun _ => .ite (fun _ => at_wr52 hE hm _ _ _) fun _ => .pure fun _ => id

theorem at_emit (k : EventKind) : Triple E (At h M) (emit submitDuring k) fun _ => At h M := by
  intro s hs
  rcases emit_during k s with e | ⟨t, e, ht⟩ <;> rw [e]
  · exact hE
  · exact hs.touched ht

end

end Sys2Proof.Machine
end

section
/-! Where an operation may leave the handle of a sound state, and the operations that hold `Active` with no DMA request in
flight: no terminal source is enabled while they run, so they end in `Idle` with the handle as they wrote it. -/

namespace Sys2Proof.Machine

/-! ### Sound ends -/

/-- The transitions of the global state (R32). -/
def GlobalState.nexts : GlobalState → List GlobalState
  | .reset => [.reset, .init]
  | .init => [.init, .idle, .cardRemoved, .reset]
  | .idle => [.idle, .active, .cardRemoved, .reset]
  | .active => [.active, .idle, .cardRemoved, .reset]
  | .cardRemoved => [.cardRemoved, .idle, .reset]

/-- The five continuation registers (R26). -/
def Handle.continuation (h : Handle) : Word × RegAddr × Word × Word × Word :=
  (h.remainingData, h.nextRegAddr, h.nextDataAddr, h.xferSize, h.pXferBuff)

/-- What a sound handle outside a DMA request has of the registers that the interrupt handler reads. -/
structure SettledParts (context : BitVec 4) (remaining : Word) (count : BitVec 4) (mask : Byte) (irq errors : Word) :
    Prop where
  context : context = 0
  remaining : remaining = 0
  count_mask : count.toNat = (setBits mask).length
  mask_bit_zero : mask.getLsbD 0 = false
  masked : irq &&& terminalFlags = 0
  sources : irq &&& ~~~allSources = 0
  line : irq &&& flSdioit ≠ 0 → count ≠ 0
  errors : errors &&& 0xFFFFFF00 = 0

/-- A sound handle outside a DMA request, but for the global and the identification state. -/
def Handle.Settled (h : Handle) : Prop :=
  SettledParts h.context h.remainingData h.fnIrqCount h.fnIrqMask h.irqMask h.lastErrorCodes

theorem Handle.Settled.isMasked {h : Handle} (i : h.Settled) : h.Masked := i.masked

theorem Handle.Inv.context_zero {h : Handle} (i : h.Inv) (hg : h.globalState ≠ .active) : h.context = 0 := by
  by_contra hc
  exact hg (i.context_active hc)

theorem Handle.Inv.settled {h : Handle} (i : h.Inv) (hg : h.globalState ≠ .active) : h.Settled := by
  have hc := i.context_zero hg
  have hd : ctxIsDma h.context = false := by rw [hc]; rfl
  refine ⟨hc, ?_, i.count_mask, i.mask_bit_zero, i.terminal_dma hd, i.mask_sources, i.line_count, i.errors_low⟩
  by_contra hr
  rw [i.remaining_dma hr] at hd
  cases hd

/-- A settled handle is sound where its identification state goes with its global state (R36, R171). -/
theorem Handle.Settled.inv {h : Handle} (i : h.Settled) (hg : h.globalState ≠ .active)
    (hi : h.globalState = .idle → h.identState = .selected) (ho : h.globalState ≠ .idle → h.identState = .powerOff)
    (hr : h.globalState = .cardRemoved → h.cfg.isDefault = true) : h.Inv where
  context_legal := by rw [i.context]; simp [legalContexts, ctxNone]
  context_active := fun hc => absurd i.context hc
  active_dma := fun ha => absurd ha hg
  remaining_dma := fun hc => absurd i.remaining hc
  count_mask := i.count_mask
  mask_bit_zero := i.mask_bit_zero
  next_data := by rw [i.context]; intro hd; cases hd
  dma_terminal := by rw [i.context]; intro hd; cases hd
  terminal_dma := fun _ => i.masked
  mask_sources := i.sources
  line_count := i.line
  ident_selected := fun h => hi (h.resolve_right hg)
  ident_off := fun h => ho fun hi => h (.inl hi)
  removed_default := hr
  errors_low := i.errors

theorem Handle.Inv.withErrors {h : Handle} (i : h.Inv) {e : Word} (he : e &&& 0xFFFFFF00 = 0) : (h.withErrors e).Inv where
  context_legal := i.context_legal
  context_active := i.context_active
  active_dma := i.active_dma
  remaining_dma := i.remaining_dma
  count_mask := i.count_mask
  mask_bit_zero := i.mask_bit_zero
  next_data := i.next_data
  dma_terminal := i.dma_terminal
  terminal_dma := i.terminal_dma
  mask_sources := i.mask_sources
  line_count := i.line_count
  ident_selected := i.ident_selected
  ident_off := i.ident_off
  removed_default := i.removed_default
  errors_low := he

/-- A sound handle that an operation may leave of `h`; where `keep` says so, with the continuation registers as they were. -/
structure Handle.Next (keep : Bool) (h h' : Handle) : Prop where
  inv : h'.Inv
  global : h'.globalState ∈ h.globalState.nexts
  regs : keep = true → h'.continuation = h.continuation

/-- An operation ends with a handle that it may leave of `h`, and with memory as `M` says. -/
def Ends (keep : Bool) (h : Handle) (M : Memory → Prop) (t : State) : Prop := ∃ h', Handle.Next keep h h' ∧ At h' M t

theorem GlobalState.mem_nexts (g : GlobalState) : g ∈ g.nexts := by cases g <;> decide

section
variable {h : Handle} {M : Memory → Prop} {t : State} {keep : Bool}

theorem Ends.stay (i : h.Inv) (ht : At h M t) : Ends keep h M t := ⟨h, ⟨i, h.globalState.mem_nexts, fun _ => rfl⟩, ht⟩

/-- An operation from `Idle` ends there. -/
theorem Ends.idle (i : h.Inv) (hg : h.globalState = .idle) {h' : Handle} (hs : h'.Settled) (hi : h'.globalState = .idle)
    (hd : h'.identState = h.identState) (hr : h'.continuation = h.continuation) (ht : At h' M t) : Ends keep h M t := by
  refine ⟨h', ⟨hs.inv (by simp [hi]) (fun _ => ?_) (fun hn => absurd hi hn) (by simp [hi]), ?_, fun _ => hr⟩, ht⟩
  · rw [hd]; exact i.ident_selected (.inl hg)
  · rw [hi, hg]; decide

/-- Nothing but the global state was written, and it is `Idle` again. -/
theorem Ends.idleAgain (i : h.Inv) (hg : h.globalState = .idle) (ht : At (h.withGlobal .idle) M t) : Ends keep h M t :=
  .idle i hg (h' := h.withGlobal .idle) (i.settled (by simp [hg])) rfl rfl rfl ht

end

/-! ### Operations from `Idle` -/

section
variable {E : Fault → Prop} {h : Handle} {M : Memory → Prop} {keep : Bool} (i : h.Inv) (hg : h.globalState = .idle)
include i

theorem respond_ends (st : Word) (vals : List Word) : Triple E (At h M) (respond st vals) fun _ => Ends keep h M :=
  (at_plain (plain_respond _ _)).mono fun _ _ => .stay i

include hg

theorem masked_of_idle : h.Masked := (i.settled (by simp [hg])).isMasked

theorem masked_active : (h.withGlobal .active).Masked := masked_of_idle (h := h) i hg

theorem idleOk_ends (vals : List Word) : Triple E (At (h.withGlobal .active) M) (idleOk vals) fun _ => Ends keep h M :=
  (at_idleOk vals).mono fun _ _ => .idleAgain i hg

theorem idleError_ends (err : Word) : Triple E (At (h.withGlobal .active) M) (idleError err) fun _ => Ends keep h M :=
  (at_idleError err).mono fun _ _ => .idleAgain i hg

variable (hE : E .reentrantRequest)
include hE

theorem directBody_ends (rw raw : Bit) (fn : Fn) (addr : RegAddr) (data : Byte) :
    Triple E (At h M) (directBody rw raw fn addr data) fun _ => Ends keep h M :=
  .bind (at_updH fun _ => rfl) fun _ => .bind (at_via hE (masked_active i hg) (plain_portCmd _ _)) fun _ =>
    .ite (fun _ => idleOk_ends i hg _) fun _ => idleError_ends i hg _

theorem rmwBody_ends (addr : RegAddr) (clear set : Byte) :
    Triple E (At h M) (rmwBody addr clear set) fun _ => Ends keep h M :=
  .bind (at_updH fun _ => rfl) fun _ => .bind (at_rmw52 hE (masked_active i hg) _ _ _ _) fun _ =>
    .ite (fun _ => idleOk_ends i hg _) fun _ => idleError_ends i hg _

theorem setBusWidthBody_ends (val : Word) : Triple E (At h M) (setBusWidthBody val) fun _ => Ends keep h M :=
  .ite (fun _ => respond_ends i _ _) fun _ => .bind (at_updH fun _ => rfl) fun _ =>
    .bind (at_wr52 hE (masked_active i hg) _ _ _) fun _ => .ite
      (fun _ => .get fun _ _ => .bind (at_via hE (masked_active i hg) (plain_portBusConfig _ _ _ _ _)) fun _ =>
        .bind (at_updH fun _ => rfl) fun _ => (at_idleOk _).mono fun _ _ =>
          .idle i hg (i.settled (by simp [hg]) : h.Settled) rfl rfl rfl)
      fun _ => idleError_ends i hg _

theorem setBlockSizeBody_ends (fn : Fn) (val : Word) :
    Triple E (At h M) (setBlockSizeBody fn val) fun _ => Ends keep h M := by
  have hm := masked_active i hg
  have store : ∀ e : Word, Triple E (At (h.withGlobal .active) M)
      (if e = 0 then (do updH (·.withBlockSize val); idleOk []) else idleError e) fun _ => Ends keep h M :=
    fun _ => .ite (fun _ => .bind (at_updH fun _ => rfl) fun _ => (at_idleOk _).mono fun _ _ =>
      .idle i hg (i.settled (by simp [hg]) : h.Settled) rfl rfl rfl) fun _ => idleError_ends i hg _
  have write : Triple E (At (h.withGlobal .active) M) (writeCardBlockSize fn val) fun _ => At (h.withGlobal .active) M :=
    .bind (at_wr52 hE hm _ _ _) fun _ => .ite (fun _ => at_wr52 hE hm _ _ _) fun _ => .pure fun _ => id
  exact .get fun _ _ => .ite (fun _ => respond_ends i _ _) fun _ => .bind (at_updH fun _ => rfl) fun _ =>
    .ite (fun _ => .bind write store) fun _ => .bind (.pure fun _ => id) store

/-- The ready poll of `EN_FN`: it may wait until the environment's patience is used up. -/
theorem readyPoll_ends (hw : E .stuck) (fn : Fn) (t0 : Word) :
    ∀ n, Triple E (At (h.withGlobal .active) M) (readyPoll fn t0 n) fun _ => Ends keep h M
  | 0 => .stop hw
  | n + 1 => .bind (at_rd52 hE (masked_active i hg) _ _) fun _ => .ite
      (fun _ => .ite (fun _ => idleOk_ends i hg _) fun _ =>
        .bind (at_via hE (masked_active i hg) plain_portTick) fun _ => .get fun _ _ => .ite
          (fun _ => .bind (at_orErrors (by decide)) fun _ => .bind (at_updH fun _ => rfl) fun _ =>
            (at_plain (plain_respond _ _)).mono fun _ _ => .idleAgain i hg)
          fun _ => readyPoll_ends hw fn t0 n)
      fun _ => idleError_ends i hg _

theorem enFnBody_ends (hw : E .stuck) (fn : Fn) : Triple E (At h M) (enFnBody fn) fun _ => Ends keep h M :=
  .ite (fun _ => respond_ends i _ _) fun _ => .bind (at_updH fun _ => rfl) fun _ =>
    .bind (at_rmw52 hE (masked_active i hg) _ _ _ _) fun _ => .ite
      (fun _ => .bind (at_via hE (masked_active i hg) plain_portTick) fun _ => .get fun _ _ =>
        readyPoll_ends i hg hE hw _ _ _)
      fun _ => idleError_ends i hg _

end

section
variable {E : Fault → Prop} {h : Handle} {M : Memory → Prop} (hE : E .reentrantRequest)
include hE

theorem at_readRegs (hm : h.Masked) : ∀ n addr, Triple E (At h M) (readRegs n addr) fun _ => At h M
  | 0, _ => .pure fun _ => id
  | n + 1, _ => .bind (at_rd52 hE hm _ _) fun _ => .ite
      (fun _ => .bind (at_readRegs hm n _) fun r => match r with
        | .ok _ => .pure fun _ => id
        | .error _ => .pure fun _ => id) fun _ => .pure fun _ => id

theorem snapshotBody_ends {keep : Bool} (i : h.Inv) (hg : h.globalState = .idle) (n : Nat) (addr : RegAddr) :
    Triple E (At h M) (snapshotBody n addr) fun _ => Ends keep h M :=
  .bind (at_updH fun _ => rfl) fun _ => .bind (at_readRegs hE (masked_active i hg) _ _) fun r => match r with
    | .ok _ => idleOk_ends i hg _
    | .error _ => idleError_ends i hg _

end

/-! ### The mask of enabled functions and its count (R28) -/

/-- One more element satisfies a test that one element of the list satisfies besides. -/
theorem length_filter_or {α : Type} [DecidableEq α] {p : α → Bool} {x : α} {l : List α} (hn : l.Nodup) (hx : x ∈ l)
    (hp : p x = false) : (l.filter fun a => p a || decide (a = x)).length = (l.filter p).length + 1 := by
  induction l with
  | nil => cases hx
  | cons a l ih =>
    obtain ⟨ha, hl⟩ := List.nodup_cons.1 hn
    by_cases h : a = x
    · subst h
      have same : l.filter (fun b => p b || decide (b = a)) = l.filter p :=
        List.filter_congr fun b hb => by
          have : b ≠ a := fun e => ha (e ▸ hb)
          simp [this]
      simp [hp, same]
    · have := ih hl ((List.mem_cons.1 hx).resolve_left (Ne.symm h))
      cases hpa : p a <;> simp [hpa, h, this]

theorem fnBit_getLsbD (fn : Fn) {k : Nat} (hk : k < 8) : (fnBit fn).getLsbD k = decide (k = fn.toNat) := by
  have h : (fnBit fn) = BitVec.twoPow 8 fn.toNat := rfl
  rw [h, BitVec.getLsbD_twoPow]
  have := fn.isLt
  simp only [eq_comm (a := k)]
  simp
  omega

theorem length_setBits_or {b : Byte} {fn : Fn} (h : b.getLsbD fn.toNat = false) :
    (setBits (b ||| fnBit fn)).length = (setBits b).length + 1 := by
  have hfn : fn.toNat ∈ List.range 8 := List.mem_range.2 fn.isLt
  rw [setBits, setBits, ← length_filter_or List.nodup_range hfn h]
  congr 1
  refine List.filter_congr fun k hk => ?_
  rw [BitVec.getLsbD_or, fnBit_getLsbD fn (List.mem_range.1 hk)]

theorem length_setBits_andNot {b : Byte} {fn : Fn} (h : b.getLsbD fn.toNat = true) :
    (setBits b).length = (setBits (b &&& ~~~fnBit fn)).length + 1 := by
  have back : b &&& ~~~fnBit fn ||| fnBit fn = b := by
    refine BitVec.eq_of_getLsbD_eq fun k hk => ?_
    rw [BitVec.getLsbD_or, BitVec.getLsbD_and, BitVec.getLsbD_not, fnBit_getLsbD fn hk]
    by_cases e : k = fn.toNat
    · simp [e, h]
    · simp [e, hk]
  rw [← length_setBits_or (fn := fn), back]
  have := fnBit_getLsbD fn fn.isLt
  simp [BitVec.getLsbD_and, this]

end Sys2Proof.Machine
end

section
/-! The operations on function interrupts and on the settings, and the lifecycle, from a sound state with no DMA request in
flight. -/

namespace Sys2Proof.Machine

/-! ### The bookkeeping of function interrupts (R28, R280, R281) -/

section
variable {h : Handle} (fn : Fn)

theorem enableFn_withErrors (e : Word) : (h.withErrors e).enableFn fn = (h.enableFn fn).withErrors e := by
  unfold Handle.enableFn
  split <;> simp_all [Handle.withErrors, Handle.withFnIrq]

theorem disableFn_withErrors (e : Word) : (h.withErrors e).disableFn fn = (h.disableFn fn).withErrors e := by
  unfold Handle.disableFn
  split <;> simp_all [Handle.withErrors, Handle.withFnIrq]

/-- The bookkeeping writes nothing but the mask and the count. -/
theorem enableFn_eq : ∃ m c, h.enableFn fn = h.withFnIrq m c := by
  unfold Handle.enableFn
  split
  · exact ⟨h.fnIrqMask, h.fnIrqCount, rfl⟩
  · exact ⟨_, _, rfl⟩

theorem disableFn_eq : ∃ m c, h.disableFn fn = h.withFnIrq m c := by
  unfold Handle.disableFn
  split
  · exact ⟨_, _, rfl⟩
  · exact ⟨h.fnIrqMask, h.fnIrqCount, rfl⟩

end

/-- The functions with an interrupt are at most seven of the eight (R28). -/
theorem length_setBits_lt {b : Byte} {fn : Fn} (h : b.getLsbD fn.toNat = false) : (setBits b).length < 8 := by
  have h1 := length_setBits_or h
  have h2 : (setBits (b ||| fnBit fn)).length ≤ (List.range 8).length := List.length_filter_le _ _
  rw [List.length_range] at h2
  omega

/-- What the bookkeeping keeps between the mask and the count. -/
structure Counts (mask : Byte) (count : BitVec 4) : Prop where
  count_mask : count.toNat = (setBits mask).length
  bit_zero : mask.getLsbD 0 = false

theorem Handle.Settled.counts {h : Handle} (i : h.Settled) : Counts h.fnIrqMask h.fnIrqCount :=
  ⟨i.count_mask, i.mask_bit_zero⟩

section
variable {h : Handle} {fn : Fn} (c : Counts h.fnIrqMask h.fnIrqCount)
include c

theorem counts_enableFn (hf : fn ≠ 0) :
    Counts (h.enableFn fn).fnIrqMask (h.enableFn fn).fnIrqCount ∧ (h.enableFn fn).fnIrqCount ≠ 0 := by
  unfold Handle.enableFn
  split
  · rename_i hb
    refine ⟨c, fun h0 => ?_⟩
    have h1 := c.count_mask
    rw [h0, length_setBits_andNot hb] at h1
    simp at h1
  · rename_i hb
    have hb : h.fnIrqMask.getLsbD fn.toNat = false := by simpa using hb
    have h1 := length_setBits_lt hb
    have h2 : (h.fnIrqCount + 1).toNat = (setBits h.fnIrqMask).length + 1 := by
      have := c.count_mask
      rw [BitVec.toNat_add, show (1 : BitVec 4).toNat = 1 from rfl]
      omega
    refine ⟨⟨h2.trans (length_setBits_or hb).symm, ?_⟩, fun h0 => ?_⟩
    · have hf' : fn.toNat ≠ 0 := fun e => hf (BitVec.eq_of_toNat_eq e)
      have := fnBit_getLsbD fn (k := 0) (by decide)
      simp only [Handle.withFnIrq, BitVec.getLsbD_or, c.bit_zero, this]
      simpa using Ne.symm hf'
    · rw [show h.fnIrqCount + 1 = 0 from h0] at h2
      simp at h2

theorem counts_disableFn : Counts (h.disableFn fn).fnIrqMask (h.disableFn fn).fnIrqCount := by
  unfold Handle.disableFn
  split
  · rename_i hb
    have h1 := length_setBits_andNot hb
    have h3 := length_setBits_lt (b := h.fnIrqMask &&& ~~~fnBit fn) (fn := fn)
      (by simp [BitVec.getLsbD_and, fnBit_getLsbD fn fn.isLt])
    have h2 := c.count_mask
    refine ⟨?_, ?_⟩
    · show (h.fnIrqCount - 1).toNat = (setBits (h.fnIrqMask &&& ~~~fnBit fn)).length
      rw [BitVec.toNat_sub, show (1 : BitVec 4).toNat = 1 from rfl]
      omega
    · simp only [Handle.withFnIrq, BitVec.getLsbD_and, c.bit_zero, Bool.false_and]
  · exact c

end

section
variable {E : Fault → Prop} {h : Handle} {M : Memory → Prop} {keep : Bool} (hE : E .reentrantRequest) (i : h.Inv)
include hE i

theorem enFnIrqBody_ends (hg : h.globalState = .idle) (fn : Fn) :
    Triple E (At h M) (enFnIrqBody fn) fun _ => Ends keep h M := by
  refine .ite (fun _ => respond_ends i _ _) fun hf => .bind (at_updH fun _ => rfl) fun _ =>
    .bind (at_rd52 hE (masked_active i hg) _ _) fun _ => .ite (fun _ => .get fun _ _ =>
      .bind (at_wr52 hE (masked_active i hg) _ _ _) fun _ => .ite (fun _ => ?_) fun _ => idleError_ends i hg _)
      fun _ => idleError_ends i hg _
  have s : h.Settled := i.settled (by simp [hg])
  obtain ⟨c, c0⟩ := counts_enableFn (h := h.withGlobal .active) s.counts hf
  refine .bind (at_updH (enableFn_withErrors fn)) fun _ => ?_
  obtain ⟨m, n, e⟩ := enableFn_eq (h := h.withGlobal .active) fn
  rw [e] at c c0 ⊢
  have masked : h.irqMask &&& terminalFlags = 0 := s.masked
  refine .bind (at_point hE masked (at_portIrqEnable _)) fun _ =>
    .bind (at_via hE ?_ (plain_portSdioOp _)) fun _ => (at_idleOk _).mono fun _ _ => .idle i hg ?_ rfl rfl rfl
  · exact (mask_or_other (by decide)).trans masked
  · exact ⟨s.context, s.remaining, c.count_mask, c.bit_zero, (mask_or_other (by decide)).trans masked,
      mask_or_sources s.sources (by decide), fun _ => c0, s.errors⟩

/-- The controller's side goes off with the last function alone (R281, R341). -/
theorem disFnIrqBody_ends (hg : h.globalState = .idle) (fn : Fn) :
    Triple E (At h M) (disFnIrqBody fn) fun _ => Ends keep h M := by
  have s : h.Settled := i.settled (by simp [hg])
  have masked : h.irqMask &&& terminalFlags = 0 := s.masked
  have c := counts_disableFn (h := h.withGlobal .active) (fn := fn) s.counts
  obtain ⟨m, n, e⟩ := disableFn_eq (h := h.withGlobal .active) fn
  have booked : Triple E (At (h.withGlobal .active) M) (updH (·.disableFn fn)) fun _ =>
      At ((h.withGlobal .active).withFnIrq m n) M := e ▸ at_updH (disableFn_withErrors fn)
  rw [e] at c
  have book : Triple E (At (h.withGlobal .active) M) (bookDisabled fn) fun _ t => ∃ irq, irq &&& terminalFlags = 0 ∧
      irq &&& ~~~allSources = 0 ∧ (irq &&& flSdioit ≠ 0 → n ≠ 0) ∧
      At (((h.withGlobal .active).withFnIrq m n).withIrqMask irq) M t := by
    refine .get fun u hu => .ite (fun _ => ?_) fun h0 => booked.mono fun _ _ ht =>
      ⟨h.irqMask, masked, s.sources, fun _ hn => h0 ?_, ht⟩
    · have off : h.irqMask &&& ~~~flSdioit &&& terminalFlags = 0 := (mask_andNot_other (by decide)).trans masked
      exact .bind (at_point hE masked booked) fun _ => .bind (at_portIrqDisable _) fun _ =>
        (at_via (h := ((h.withGlobal .active).withFnIrq m n).withIrqMask (h.irqMask &&& ~~~flSdioit)) hE off (plain_portSdioOp _)).mono fun _ _ ht =>
          ⟨h.irqMask &&& ~~~flSdioit, off, mask_andNot_sources s.sources _,
            fun hl => absurd (mask_andNot_and _ _) hl, ht⟩
    · obtain ⟨⟨c, -, hu⟩, -⟩ := hu
      rw [hu, disableFn_withErrors, e]
      exact hn
  refine .ite (fun _ => respond_ends i _ _) fun hf => .bind (at_updH fun _ => rfl) fun _ =>
    .bind (at_rd52 hE (masked_active i hg) _ _) fun _ => .ite (fun _ =>
      .bind (at_wr52 hE (masked_active i hg) _ _ _) fun _ => .ite (fun _ => .bind book ?_)
        fun _ => idleError_ends i hg _)
      fun _ => idleError_ends i hg _
  rintro - u ⟨irq, hm, hs, hl, hu⟩
  have done : Triple E (At (((h.withGlobal .active).withFnIrq m n).withIrqMask irq) M) (idleOk [])
      fun _ => Ends keep h M := (at_idleOk []).mono fun _ _ => .idle i hg
    ⟨s.context, s.remaining, c.count_mask, c.bit_zero, hm, hs, hl, s.errors⟩ rfl rfl rfl
  exact done u hu

end

end Sys2Proof.Machine
end

section
/-! The settings, the identification and the lifecycle from a sound state: where their operations may leave the handle. -/

namespace Sys2Proof.Machine

section
variable {α : Type} {E : Fault → Prop}

/-- A state with a value that the assertion speaks of. -/
theorem Triple.of_exists {ι : Type} {P : ι → State → Prop} {m : Act α} {Q : α → State → Prop}
    (h : ∀ x, Triple E (P x) m Q) : Triple E (fun s => ∃ x, P x s) m Q := fun s ⟨x, hs⟩ => h x s hs

/-- A state with a fact that does not speak of it. -/
theorem Triple.of_and {c : Prop} {P : State → Prop} {m : Act α} {Q : α → State → Prop} (h : c → Triple E P m Q) :
    Triple E (fun s => c ∧ P s) m Q := fun s ⟨hc, hs⟩ => h hc s hs

end

/-! ### Settings -/

/-- A handle with nothing outstanding and nothing enabled is settled. -/
theorem settled_zero : SettledParts 0 0 0 0 0 0 := by constructor <;> decide

/-- What is disabled once is disabled (R46). -/
theorem irqMask_disabled {m : Word} (hm : m &&& ~~~allSources = 0) : m &&& ~~~allSources &&& terminalFlags = 0 ∧
    m &&& ~~~allSources &&& ~~~allSources = 0 ∧ m &&& ~~~allSources &&& flSdioit = 0 := by
  rw [hm]
  decide


section
variable {h h' : Handle} {M : Memory → Prop} {t : State} {keep : Bool}

/-- A write that leaves the global and the identification state. -/
theorem Ends.sameState (i : h.Inv) (hs : h'.Settled) (hg : h.globalState ≠ .active)
    (he : h'.globalState = h.globalState) (hd : h'.identState = h.identState)
    (hc : h.globalState = .cardRemoved → h'.cfg = h.cfg) (hr : h'.continuation = h.continuation) (ht : At h' M t) :
    Ends keep h M t := by
  have off : h.globalState ≠ .idle → ¬(h.globalState = .idle ∨ h.globalState = .active) := fun h1 h2 => h2.elim h1 hg
  refine ⟨h', ⟨hs.inv (he ▸ hg) (fun hi => ?_) (fun hi => ?_) fun hi => ?_, he ▸ h.globalState.mem_nexts, fun _ => hr⟩, ht⟩
  · rw [hd]; exact i.ident_selected (.inl (he ▸ hi))
  · rw [hd]; exact i.ident_off (off (he ▸ hi))
  · rw [hc (he ▸ hi)]; exact i.removed_default (he ▸ hi)

theorem withCallback_withErrors (fn : Fn) (sel : BitVec 4) (cb e : Word) :
    (h.withErrors e).withCallback fn sel cb = (h.withCallback fn sel cb).withErrors e := by
  unfold Handle.withCallback
  split <;> rfl

/-- The registration writes a callback slot alone. -/
theorem withCallback_eq (fn : Fn) (sel : BitVec 4) (cb : Word) : ∃ a b c d f, h.withCallback fn sel cb =
    { h with cbRxComplete := a, cbTxComplete := b, cbError := c, cbTransceiver := d, fnCb := f } := by
  unfold Handle.withCallback
  split <;> exact ⟨_, _, _, _, _, rfl⟩

variable {E : Fault → Prop} (i : h.Inv) (hg : h.globalState ≠ .active)
include i hg

theorem setDataTimeoutBody_ends (val : Word) : Triple E (At h M) (setDataTimeoutBody val) fun _ => Ends keep h M :=
  .bind (at_updH fun _ => rfl) fun _ => (at_plain (plain_respond _ _)).mono fun _ _ =>
    .sameState i (i.settled hg : h.Settled) hg rfl rfl (fun _ => rfl) rfl

theorem regCallbackBody_ends (fn : Fn) (sel : BitVec 4) (cb : Word) :
    Triple E (At h M) (regCallbackBody fn sel cb) fun _ => Ends keep h M := by
  refine .ite (fun _ => respond_ends i _ _) fun _ => .bind (at_updH (withCallback_withErrors fn sel cb)) fun _ => ?_
  obtain ⟨a, b, c, d, f, e⟩ := withCallback_eq (h := h) fn sel cb
  rw [e]
  exact (at_plain (plain_respond _ _)).mono fun _ _ =>
    .sameState i (i.settled hg : h.Settled) hg rfl rfl (fun _ => rfl) rfl

variable (hE : E .reentrantRequest)
include hE

theorem withDivider_ends (hz : Word) {next : Word → Word → Act Unit}
    (hn : ∀ k d, Triple E (At h M) (next k d) fun _ => Ends keep h M) :
    Triple E (At h M) (withDivider hz next) fun _ => Ends keep h M :=
  .bind (at_via hE (i.settled hg).isMasked plain_portClockHz) fun _ => .get fun _ _ =>
    .ite (fun _ => respond_ends i _ _) fun _ => .ite (fun _ => respond_ends i _ _) fun _ =>
    .ite (fun _ => (at_raiseErr (by decide)).mono fun _ _ => .stay i) fun _ => hn _ _

theorem setClockFreqBody_ends (hi : h.globalState = .idle) (val : Word) :
    Triple E (At h M) (setClockFreqBody val) fun _ => Ends keep h M :=
  withDivider_ends i hg hE _ fun _ _ => .get fun _ _ =>
    .bind (at_via hE (i.settled hg).isMasked (plain_portBusConfig _ _ _ _ _)) fun _ => .bind (at_updH fun _ => rfl) fun _ =>
    (at_plain (plain_respond _ _)).mono fun _ _ =>
      .idle i hi (i.settled hg : h.Settled) hi rfl rfl

theorem initBody_ends (hr : h.globalState = .reset) (xcvr : Bit) (inst : Word) :
    Triple E (At h M) (initBody xcvr inst) fun _ => Ends false h M := by
  have s := i.settled hg
  have off : (h.withIrqMask (h.irqMask &&& ~~~allSources)).Masked := (irqMask_disabled s.sources).1
  refine .bind (at_point hE s.isMasked (at_portIrqDisable _)) fun _ => .bind (at_via hE off (plain_portFlagClear _))
    fun _ => .bind (at_via hE off plain_portClockHz) fun _ => .bind (at_plain (plain_defaultDiv _)) fun d => ?_
  have written : Triple E (At (h.withIrqMask (h.irqMask &&& ~~~allSources)) M) (updH fun _ => Handle.afterInit inst xcvr d)
      fun _ => At (Handle.afterInit inst xcvr d) M := .updH fun _ ht => ⟨⟨0, by decide, rfl⟩, ht.mem⟩
  refine .bind written fun _ => (at_plain (plain_respond _ _)).mono fun _ _ ht =>
    ⟨_, ⟨Handle.Settled.inv (h := Handle.afterInit inst xcvr d) settled_zero
      (by simp [Handle.afterInit]) (by simp [Handle.afterInit]) (fun _ => rfl) (by simp [Handle.afterInit]), ?_,
      fun hk => nomatch hk⟩, ht⟩
  show GlobalState.init ∈ _
  rw [hr]
  decide

end

/-! ### `DEINIT` and `to_card_removed` -/

/-- Memory as the operation may leave it holds what the engine may write of the request that is dropped. -/
def LandsIn (h : Handle) (M : Memory → Prop) : Prop := ∀ m m', M m → Lands h h.unsettled m m' → M m'

theorem LandsIn.of_context {h : Handle} {M : Memory → Prop} (hc : h.context = 0) : LandsIn h M := fun m m' hm hl => by
  have : m' = m := hl.2.2 (by rw [hc]; rfl)
  rwa [this]

/-- What `to_card_removed` writes (R171). -/
def Handle.removed (h : Handle) (d : Word) : Handle :=
  ((((h.withCfg (Cfg.default d)).withContext ctxNone).withRemaining 0).withFnIrq 0 0 |>.withIdent .powerOff).withGlobal
    .cardRemoved

/-- The handle after the first action of `DEINIT` and of `to_card_removed`, ready for the rest. -/
structure Disabled (keep : Bool) (h : Handle) (M : Memory → Prop) (k : Handle) : Prop where
  masked : k.Masked
  sources : k.irqMask &&& ~~~allSources = 0
  line : k.irqMask &&& flSdioit = 0
  errors : k.lastErrorCodes &&& 0xFFFFFF00 = 0
  lands : LandsIn k M
  regs : keep = true → k.continuation = h.continuation

section
variable {E : Fault → Prop} {h : Handle} {M : Memory → Prop} (hE : E .reentrantRequest)

/-- The first action with no DMA request in flight. -/
theorem disable_settled (s : h.Settled) (keep : Bool) (hE : E .reentrantRequest) :
    Triple E (At h M) (via irqPoint (portIrqDisable allSources)) fun _ t => ∃ k, Disabled keep h M k ∧ At k M t :=
  (at_point hE s.isMasked (at_portIrqDisable _)).mono fun _ _ ht =>
    have off := irqMask_disabled s.sources
    ⟨h.withIrqMask (h.irqMask &&& ~~~allSources), ⟨off.1, off.2.1, off.2.2, s.errors, .of_context s.context, fun _ => rfl⟩, ht⟩

include hE

theorem at_dropDma (hm : h.Masked) (hM : LandsIn h M) : Triple E (At h M) (dropDma irqPoint) fun _ => At h M := by
  have : Triple E (At h M) (do
      let s ← get
      if ctxIsDma s.h.context then do
        via irqPoint portDmaTeardown
        landDma s.h.unsettled
      else pure () : Act Unit) fun _ => At h M := by
    refine .get fun s hs => .ite (fun _ => .bind (at_via hE hm plain_portDmaTeardown) fun _ => at_landDma ?_)
      fun _ => .pure fun _ => id
    obtain ⟨⟨e, -, hh⟩, -⟩ := hs
    rw [hh]
    exact hM
  intro s hs
  have := this s hs
  simp only [bind_apply, get_apply, ite_run, pure_apply] at this
  simp only [dropDma, bind_apply]
  exact this

variable {P : State → Prop} {keep : Bool} (h1 : Triple E P (via irqPoint (portIrqDisable allSources)) fun _ t =>
  ∃ k, Disabled keep h M k ∧ At k M t)
include h1

theorem toCardRemoved_at : Triple E P toCardRemoved fun _ t => ∃ k d, Disabled keep h M k ∧ At (k.removed d) M t :=
  .bind h1 fun _ => .of_exists fun k => .of_and fun hk => .bind (at_via hE hk.masked plain_portDpathDisable) fun _ =>
    .bind (at_dropDma hE hk.masked hk.lands) fun _ => .bind (at_via hE hk.masked (plain_portSdioOp _)) fun _ =>
    .bind (at_via hE hk.masked (plain_portFlagClear _)) fun _ => .bind (at_via hE hk.masked plain_portClockHz) fun _ =>
    .bind (at_plain (plain_defaultDiv _)) fun d => .bind (at_via hE hk.masked (plain_portBusConfig _ _ _ _ _)) fun _ =>
    .bind (at_updH fun _ => rfl) fun _ => .bind (at_updH fun _ => rfl) fun _ => .bind (at_updH fun _ => rfl) fun _ =>
    .bind (at_updH fun _ => rfl) fun _ => .bind (at_updH fun _ => rfl) fun _ =>
    (at_updH (f := (·.withGlobal .cardRemoved)) fun _ => rfl).mono fun _ _ ht => ⟨k, d, hk, ht⟩

theorem deinitBody_at : Triple E P deinitBody fun _ => Ends false h M := by
  refine .bind h1 fun _ => .of_exists fun k => .of_and fun hk => .bind (at_via hE hk.masked plain_portDpathDisable)
    fun _ => .bind (at_dropDma hE hk.masked hk.lands) fun _ => .bind (at_via hE hk.masked (plain_portSdioOp _)) fun _ =>
    .bind (at_via hE hk.masked (plain_portBusPower _)) fun _ =>
    .bind (at_via hE hk.masked (plain_portFlagClear _)) fun _ => .bind (at_plain plain_unreadClock) fun _ =>
    .bind (at_plain (plain_defaultDiv _)) fun d => ?_
  have written : Triple E (At k M) (updH (·.afterDeinit d)) fun _ => At (k.afterDeinit d) M :=
    .updH fun u ⟨⟨e, _, hu⟩, hm⟩ => ⟨⟨0, by decide, by rw [hu]; rfl⟩, hm⟩
  refine .bind written fun _ => (at_plain (plain_respond _ _)).mono fun _ _ ht =>
    ⟨_, ⟨Handle.Settled.inv (h := k.afterDeinit d) settled_zero
      (by simp [Handle.afterDeinit]) (by simp [Handle.afterDeinit]) (fun _ => rfl) (by simp [Handle.afterDeinit]), ?_,
      fun hk => nomatch hk⟩, ht⟩
  show GlobalState.reset ∈ _
  cases h.globalState <;> decide

end

/-- The handle of `CardRemoved` is sound; it keeps the continuation registers where nothing remained to issue. -/
theorem Ends.removed {h k : Handle} {M : Memory → Prop} {t : State} {keep : Bool} {d : Word} (hk : Disabled keep h M k)
    (hg : h.globalState ≠ .reset) (hr : keep = true → h.remainingData = 0) (ht : At (k.removed d) M t) :
    Ends keep h M t := by
  refine ⟨_, ⟨Handle.Settled.inv (h := k.removed d) ⟨rfl, rfl, settled_zero.count_mask,
    settled_zero.mask_bit_zero, hk.masked, hk.sources, fun hl => absurd hk.line hl, hk.errors⟩ (by simp [Handle.removed]) (by simp [Handle.removed]) (fun _ => rfl)
    fun _ => rfl, ?_, fun hkeep => ?_⟩, ht⟩
  · show GlobalState.cardRemoved ∈ _
    revert hg
    cases h.globalState <;> decide
  · have h0 := hr hkeep
    have hc := hk.regs hkeep
    simp only [Handle.continuation, Prod.mk.injEq] at hc ⊢
    obtain ⟨-, h2, h3, h4, h5⟩ := hc
    exact ⟨h0.symm, h2, h3, h4, h5⟩

/-! ### Identification -/

/-- How the identification ends of a handle: the card selected, or `CardRemoved` (R141, R142). -/
def IdentEnds (h : Handle) (M : Memory → Prop) : Bool → State → Prop
  | true => At (h.withIdent .selected) M
  | false => At ((h.withIdent .powerOff).withGlobal .cardRemoved) M

theorem IdentEnds.of_withIdent {h : Handle} {M : Memory → Prop} {x : IdentState} {b : Bool} {t : State}
    (ht : IdentEnds (h.withIdent x) M b t) : IdentEnds h M b t := by
  cases b <;> exact ht

section
variable {E : Fault → Prop} {h : Handle} {M : Memory → Prop}

theorem identFail_at (err : Word) : Triple E (At h M) (identFail err) (IdentEnds h M) :=
  .bind (at_orErrors (errmap_low _)) fun _ => .bind (at_updH fun _ => rfl) fun _ => .bind (at_updH fun _ => rfl) fun _ =>
    .pure fun _ => id

variable (hE : E .reentrantRequest)
include hE

theorem identPower_at (hm : h.Masked) (k : Word) : Triple E (At h M) (identPower k) fun _ t =>
    ∃ d, At ((h.withIdent .powerOff).withCfg (Cfg.default d)) M t := by
  have hm1 : (h.withIdent .powerOff).Masked := hm
  refine .bind (at_updH fun _ => rfl) fun _ => .bind (at_plain (plain_defaultDiv _)) fun d => ?_
  have hm2 : ((h.withIdent .powerOff).withCfg (Cfg.default d)).Masked := hm
  exact .bind (at_via hE hm1 (plain_portBusConfig _ _ _ _ _)) fun _ => .bind (at_updH fun _ => rfl) fun _ =>
    .bind (at_via hE hm2 (plain_portBusPower _)) fun _ => .bind (at_plain (plain_settleWait _)) fun _ =>
    .get fun _ _ => (at_via hE hm2 (plain_portDelayCycles _ _)).mono fun _ _ ht => ⟨d, ht⟩

theorem identCmd_at (hm : h.Masked) (idx : BitVec 6) (arg : Word) {next : Word → Act Bool}
    (hn : ∀ r, Triple E (At h M) (next r) (IdentEnds h M)) :
    Triple E (At h M) (identCmd idx arg next) (IdentEnds h M) :=
  .bind (at_via hE hm (plain_portCmd _ _)) fun _ => .ite (fun _ => hn _) fun _ => identFail_at _

theorem identVoltage_at (hm : h.Masked) (r2 : Word) {next : Act Bool} (hn : Triple E (At h M) next (IdentEnds h M)) :
    Triple E (At h M) (identVoltage r2 next) (IdentEnds h M) :=
  .ite (fun _ => identCmd_at hE hm _ _ fun _ => .get fun _ _ =>
    .ite (fun _ => .bind (at_point hE hm (at_emit hE _)) fun _ => hn) fun _ => hn) fun _ => hn

theorem identSecond_at (hm : h.Masked) (r : Word) {next : Act Bool} (hn : Triple E (At h M) next (IdentEnds h M)) :
    Triple E (At h M) (identSecond r next) (IdentEnds h M) :=
  .ite (fun _ => hn) fun _ => .get fun _ _ => identCmd_at hE hm _ _ fun _ => identVoltage_at hE hm _ hn

theorem identSelect_at (hm : h.Masked) (rca : BitVec 16) : Triple E (At h M) (identSelect rca) (IdentEnds h M) :=
  identCmd_at hE hm _ _ fun _ => .bind (at_updH fun _ => rfl) fun _ => .pure fun _ => id

theorem identRca_at (hm : h.Masked) : ∀ n, Triple E (At h M) (identRca n) (IdentEnds h M)
  | 0 => identFail_at _
  | n + 1 => .bind (at_via hE hm (plain_portCmd _ _)) fun _ => .ite
      (fun _ => .bind (at_updH fun _ => rfl) fun _ =>
        (identSelect_at (h := h.withIdent .addressAssigned) hE hm _).mono fun _ _ => .of_withIdent)
      fun _ => .ite (fun _ => identFail_at _) fun _ => .ite (fun _ => identFail_at _) fun _ =>
        .bind (at_via hE hm (plain_portDelayMs _)) fun _ => identRca_at hm n

theorem identAddress_at (hm : h.Masked) : Triple E (At h M) identAddress (IdentEnds h M) :=
  .bind (at_updH fun _ => rfl) fun _ => .get fun _ _ =>
    (identRca_at (h := h.withIdent .voltageNegotiated) hE hm _).mono fun _ _ => .of_withIdent

theorem ident_at (hm : h.Masked) (k : Word) : Triple E (At h M) (ident k) fun b t =>
    ∃ d, IdentEnds (h.withCfg (Cfg.default d)) M b t := by
  refine .bind (identPower_at hE hm k) fun _ => .of_exists fun d => ?_
  have hm' : ((h.withIdent .powerOff).withCfg (Cfg.default d)).Masked := hm
  have sequence := identCmd_at hE (M := M) hm' cmdGoIdle 0 fun _ => identCmd_at hE hm' cmdOpCond 0 fun r =>
    identSecond_at hE hm' r (identAddress_at hE hm')
  exact sequence.mono fun b _ ht => ⟨d, IdentEnds.of_withIdent (h := h.withCfg (Cfg.default d)) (x := .powerOff) ht⟩

/-- `SET_CONFIG` and `NOTIFY_INSERTION` end in `Idle`, in `CardRemoved`, or where they were (R170, R178). -/
theorem configure_ends {keep : Bool} (i : h.Inv)
    (hg : h.globalState = .init ∨ h.globalState = .idle ∨ h.globalState = .cardRemoved) (hwfc psave edge : Bit)
    (width : BitVec 2) (hz : Word) : Triple E (At h M) (configure hwfc psave edge width hz) fun _ => Ends keep h M := by
  have ha : h.globalState ≠ .active := by rcases hg with hg | hg | hg <;> simp [hg]
  have hn : h.globalState ≠ .reset := by rcases hg with hg | hg | hg <;> simp [hg]
  have toIdle : GlobalState.idle ∈ h.globalState.nexts := by rcases hg with hg | hg | hg <;> rw [hg] <;> decide
  have toRemoved : GlobalState.cardRemoved ∈ h.globalState.nexts := by
    rcases hg with hg | hg | hg <;> rw [hg] <;> decide
  have s := i.settled ha
  refine .ite (fun _ => respond_ends i _ _) fun _ => withDivider_ends i ha hE _ fun k d =>
    .bind (ident_at hE s.isMasked k) fun found => ?_
  refine .of_exists fun d0 => ?_
  cases found with
  | false =>
    exact (at_plain (plain_respond _ _)).mono fun _ _ ht =>
      ⟨_, ⟨Handle.Settled.inv (h := ((h.withCfg (Cfg.default d0)).withIdent .powerOff).withGlobal .cardRemoved) s (by simp)
        (by simp) (fun _ => rfl) fun _ => rfl, toRemoved, fun _ => rfl⟩, ht⟩
  | true =>
    refine .bind (at_via (h := (h.withCfg (Cfg.default d0)).withIdent .selected) hE s.isMasked
      (plain_portBusConfig _ _ _ _ _)) fun _ => .bind (at_updH fun _ => rfl) fun _ => ?_
    set h1 := ((h.withCfg (Cfg.default d0)).withIdent .selected).withCfg ⟨width, edge, psave, hwfc, d, hz⟩ with e1
    have s' : h1.Settled := s
    refine .bind (at_wr52 hE s'.isMasked _ _ _) fun _ => .ite (fun _ => ?_) fun _ => ?_
    · exact (at_idleOk _).mono fun _ _ ht => ⟨_, ⟨Handle.Settled.inv (h := h1.withGlobal .idle)
        s' (by simp) (fun _ => rfl) (by simp) (by simp), toIdle, fun _ => rfl⟩, ht⟩
    · refine .bind (at_orErrors (errmap_low _)) fun _ => .bind (toCardRemoved_at hE (disable_settled s' keep hE)) fun _ =>
        .of_exists fun k => .of_exists fun d1 => .of_and fun hk => (at_plain (plain_respond _ _)).mono fun _ _ ht => ?_
      exact .removed ⟨hk.masked, hk.sources, hk.line, hk.errors, hk.lands, hk.regs⟩ hn (fun _ => s.remaining) ht

end

end Sys2Proof.Machine
end

section
/-! The extended transfers from a sound state in `Idle`: memory changes in the buffer of a read alone, and the handle is
`Idle` again, or left with a DMA request in flight. -/

namespace Sys2Proof.Machine

/-! ### Bytes of a buffer -/

/-- The `k` bytes from `p` on are bytes of the buffer of `n` bytes at `buf`. -/
def Within (buf : Word) (n : Nat) (p : Word) (k : Nat) : Prop :=
  ∀ j < k, ∃ l < n, p + BitVec.ofNat 32 j = buf + BitVec.ofNat 32 l

section
variable {buf p : Word} {n k : Nat}

theorem Within.refl (buf : Word) (n : Nat) : Within buf n buf n := fun j hj => ⟨j, hj, rfl⟩

theorem Within.mono (h : Within buf n p k) {k' : Nat} (hk : k' ≤ k) : Within buf n p k' :=
  fun j hj => h j (hj.trans_le hk)

theorem Within.advance (h : Within buf n p k) {d : Nat} (hd : d ≤ k) : Within buf n (p + BitVec.ofNat 32 d) (k - d) := by
  intro j hj
  obtain ⟨l, hl, e⟩ := h (d + j) (by omega)
  exact ⟨l, hl, by rw [← e, BitVec.ofNat_add, BitVec.add_assoc]⟩

/-- Memory differs from `m0` in the buffer alone. -/
def Stored (m0 : Memory) (buf : Word) (n : Nat) (m : Memory) : Prop :=
  (m0.wf = true → m.wf = true) ∧ ∀ x, (∀ j < n, x ≠ (buf + BitVec.ofNat 32 j).toNat) → m.read x = m0.read x

theorem Stored.refl (m0 : Memory) (buf : Word) (n : Nat) : Stored m0 buf n m0 := ⟨id, fun _ _ => rfl⟩

theorem Stored.writeBytes {m0 m : Memory} (h : Stored m0 buf n m) {bs : List Byte} (hp : Within buf n p bs.length) :
    Stored m0 buf n (m.writeBytes p bs) := by
  refine ⟨fun w => Memory.wf_writeBytes (h.1 w) _ _, fun x hx => ?_⟩
  rw [Memory.read_writeBytes_other m p bs x, h.2 x hx]
  intro j hj e
  obtain ⟨l, hl, el⟩ := hp j hj
  exact hx l hl (by rw [← el]; exact e)

/-- In a buffer that does not wrap, a changed byte lies between its bounds. -/
theorem Stored.bounds {m0 m : Memory} (h : Stored m0 buf n m) (hn : buf.toNat + n ≤ 2 ^ 32) {a : Nat}
    (ha : m.read a ≠ m0.read a) : buf.toNat ≤ a ∧ a < buf.toNat + n := by
  by_contra hc
  refine ha (h.2 a fun j hj e => hc ?_)
  have hlt := (buf + BitVec.ofNat 32 j).isLt
  rw [BitVec.toNat_add, BitVec.toNat_ofNat] at e
  omega

end

theorem Memory.readBytes_length (m : Memory) (a : Word) (n : Nat) : (m.readBytes a n).length = n := by
  induction n generalizing a with
  | zero => rfl
  | succ n ih => simp [Memory.readBytes, ih]

/-! ### The pump -/

section
variable {E : Fault → Prop} {h : Handle} {M : Memory → Prop} {buf : Word} {size : Nat}

/-- What a word of the pump may do: its bytes are bytes of the buffer. -/
def WordKeeps (E : Fault → Prop) (h : Handle) (M : Memory → Prop) (buf : Word) (size : Nat)
    (word : Word → Nat → Act Unit) : Prop :=
  ∀ p k, k ≤ 4 → Within buf size p k → Triple E (At h M) (word p k) fun _ => At h M

section
variable {word : Word → Nat → Act Unit} (hw : WordKeeps E h M buf size word)
include hw

theorem pumpBatch_at : ∀ n p, Within buf size p (4 * n) → Triple E (At h M) (pumpBatch word n p) fun _ => At h M
  | 0, _, _ => .pure fun _ => id
  | n + 1, p, hp => .bind (hw p 4 le_rfl (hp.mono (by omega))) fun _ =>
      pumpBatch_at n (p + 4) (hp.advance (d := 4) (by omega) |>.mono (by omega))

theorem pumpMove_at (fast slow : Bool) {p : Word} {left : Nat} (hp : Within buf size p left) :
    Triple E (At h M) (pumpMove word fast slow p left) fun m t => Within buf size m.1 m.2 ∧ At h M t :=
  .ite
    (fun hc => .bind (pumpBatch_at hw 8 p (hp.mono hc.1)) fun _ => .pure fun _ ht =>
      ⟨hp.advance (d := 32) hc.1, ht⟩)
    fun _ => .ite
      (fun _ => .bind (hw p _ (by omega) (hp.mono (by omega))) fun _ => .pure fun _ ht =>
        ⟨hp.advance (by omega), ht⟩)
      fun _ => .pure fun _ ht => ⟨hp, ht⟩

variable (hE : E .reentrantRequest) (hs : E .stuck) (hp : E .pumpShort) (hm : h.Masked)
include hE hs hp hm

theorem pumpLoop_at (fast slow : Word → Bool) (t0 tmo : Word) :
    ∀ n p left, Within buf size p left → Triple E (At h M) (pumpLoop word fast slow t0 tmo n p left) fun _ => At h M
  | 0, _, _, _ => .stop hs
  | n + 1, p, left, hl => .bind (at_via hE hm plain_portFlags) fun _ => .ite
      (fun _ => .ite (fun _ => .bind (at_orErrors (errorsOfFlags_low _)) fun _ => .pure fun _ => id)
        fun _ => .ite (fun _ => .pure fun _ => id) fun _ => .stop hp)
      fun _ => .bind (pumpMove_at hw _ _ hl) fun _ => .of_and fun hl' =>
        .bind (at_via hE hm plain_portTick) fun _ => .ite
          (fun _ => .bind (at_orErrors (by decide)) fun _ => .pure fun _ => id)
          fun _ => pumpLoop_at fast slow t0 tmo n _ _ hl'

end

theorem pumpInWord_keeps (hE : E .reentrantRequest) (hm : h.Masked) (m0 : Memory) :
    WordKeeps E h (Stored m0 buf size) buf size pumpInWord := fun p k _ hp =>
  .bind (at_via hE hm plain_portFifoRead) fun v => .upd fun s hs =>
    ⟨hs.h, hs.mem.writeBytes (hp.mono (by simp))⟩

theorem pumpOutWord_keeps (hE : E .reentrantRequest) (hm : h.Masked) : WordKeeps E h M buf size pumpOutWord :=
  fun _ _ _ _ => .get fun _ _ => at_via hE hm (plain_portFifoWrite _)

theorem unsettleRead_at (m0 before : Memory) (n : Nat) (hn : n ≤ size) :
    Triple E (At h (Stored m0 buf size)) (unsettleRead before buf n) fun _ => At h (Stored m0 buf size) := by
  refine .upd fun s hs => ⟨hs.h, hs.mem.writeBytes (.mono (.refl buf size) ?_)⟩
  have hk := Nat.mod_lt (Config.freeCount s.env.drawn) (show 0 < n + 1 by omega)
  rw [List.length_append, (Env.freeBytes_spec _ _).1, List.length_drop, Memory.readBytes_length]
  omega

/-! ### The two polling transfers -/

variable (hE : E .reentrantRequest)
include hE

theorem pollCleanUp_at (hm : h.Masked) :
    Triple E (At h M) pollCleanUp fun _ => At ((h.withContext ctxNone).withGlobal .idle) M :=
  .bind (at_via hE hm (plain_portFlagClear _)) fun _ => .bind (at_via hE hm plain_portDpathDisable) fun _ =>
    .bind (at_updH fun _ => rfl) fun _ => at_updH fun _ => rfl

/-- A polling transfer of a phase no longer than the request ends in `Idle`, whatever its end is. -/
theorem pollBody_ends {keep : Bool} (i : h.Inv) (hg : h.globalState = .idle) (rw : Bit) (ctx : BitVec 4)
    {pump : Word → Nat → Word → Act PumpEnd} {failed : Nat → Act Unit} (bm opc : Bit) (fn : Fn) (addr : RegAddr)
    (buf size tmo : Word)
    (hp : ∀ n, n ≤ size.toNat → Triple E (At ((h.withGlobal .active).withContext ctx) M) (pump buf n tmo) fun _ =>
      At ((h.withGlobal .active).withContext ctx) M)
    (hf : ∀ n, n ≤ size.toNat → Triple E (At ((((h.withGlobal .active).withContext ctx).withContext ctxNone).withGlobal .idle) M)
      (failed n) fun _ => At ((((h.withGlobal .active).withContext ctx).withContext ctxNone).withGlobal .idle) M) :
    Triple E (At h M) (pollBody rw ctx pump failed bm opc fn addr buf size tmo) fun _ => Ends keep h M := by
  have s := i.settled (by simp [hg])
  have hm : ((h.withGlobal .active).withContext ctx).Masked := s.isMasked
  have done : ∀ st, Triple E (At ((((h.withGlobal .active).withContext ctx).withContext ctxNone).withGlobal .idle) M)
      (respond st []) fun _ => Ends keep h M := fun _ => (at_plain (plain_respond _ _)).mono fun _ _ =>
    .idle i hg ⟨rfl, s.remaining, s.count_mask, s.mask_bit_zero, s.masked, s.sources, s.line, s.errors⟩ rfl rfl rfl
  refine .get fun u _ => .ite (fun _ => respond_ends i _ _) fun _ => .bind (at_updH fun _ => rfl) fun _ =>
    .bind (at_updH fun _ => rfl) fun _ => .bind (at_via hE hm (plain_portDpathConfig _ _ _ _ _)) fun _ =>
    .bind (at_via hE hm plain_portDpathEnable) fun _ => .bind (at_via hE hm (plain_portCmd _ _)) fun _ => ?_
  have hl := phasePlan_len_le u.params bm size u.h.blockSize
  exact .ite
    (fun _ => .bind (hp _ hl) fun _ => .bind (pollCleanUp_at hE hm) fun _ =>
      .ite (fun _ => .bind (hf _ hl) fun _ => done _) fun _ => done _)
    fun _ => .bind (at_orErrors (errmap_low _)) fun _ => .bind (pollCleanUp_at hE hm) fun _ =>
      .bind (hf _ hl) fun _ => done _

variable (hs : E .stuck) (hp : E .pumpShort)
include hs hp

theorem readExtBody_ends {keep : Bool} (i : h.Inv) (hg : h.globalState = .idle) (bm opc : Bit) (fn : Fn)
    (addr : RegAddr) (buf size tmo : Word) (m0 before : Memory) :
    Triple E (At h (Stored m0 buf size.toNat))
      (pollBody 0 ctxPollRead pumpRead (unsettleRead before buf) bm opc fn addr buf size tmo) fun _ =>
        Ends keep h (Stored m0 buf size.toNat) := by
  have hm : ((h.withGlobal .active).withContext ctxPollRead).Masked := (i.settled (by simp [hg])).isMasked
  refine pollBody_ends hE i hg _ _ _ _ _ _ _ _ _ (fun n hn => ?_) fun n hn => unsettleRead_at _ _ _ hn
  exact .bind (at_via hE hm plain_portTick) fun _ => .get fun _ _ =>
    pumpLoop_at (pumpInWord_keeps hE hm m0) hE hs hp hm _ _ _ _ _ _ _ ((Within.refl _ _).mono hn)

theorem writeExtBody_ends {keep : Bool} (i : h.Inv) (hg : h.globalState = .idle) (bm opc : Bit) (fn : Fn)
    (addr : RegAddr) (buf size tmo : Word) :
    Triple E (At h M) (pollBody 1 ctxPollWrite pumpWrite (fun _ => pure ()) bm opc fn addr buf size tmo) fun _ =>
      Ends keep h M := by
  have hm : ((h.withGlobal .active).withContext ctxPollWrite).Masked := (i.settled (by simp [hg])).isMasked
  refine pollBody_ends hE i hg _ _ _ _ _ _ _ _ _ (fun n hn => ?_) fun n hn => .pure fun _ => id
  exact .bind (at_via hE hm plain_portTick) fun _ => .get fun _ _ =>
    pumpLoop_at (size := n) (pumpOutWord_keeps hE hm) hE hs hp hm _ _ _ _ _ _ _ (Within.refl _ _)

end

end Sys2Proof.Machine
end

section
/-! The DMA transfers, and the operations that a sound state in `Active` allows. -/

namespace Sys2Proof.Machine

/-! ### The first phase of a DMA request (R250 to R254) -/

/-- The handle while the first phase of a DMA request is armed. -/
def Handle.arming (h : Handle) (ctx : BitVec 4) (d : ContDesc) (reg : RegAddr) (buf size : Word) (len : Nat) : Handle :=
  (((h.withGlobal .active).withContext ctx).withContDesc d).withPhase reg buf size len

theorem Handle.arming_unsettled {h : Handle} {ctx : BitVec 4} {d : ContDesc} {reg : RegAddr} {buf size : Word} {len : Nat}
    (hl : len ≤ size.toNat) : (h.arming ctx d reg buf size len).unsettled = size.toNat := by
  have h2 := size.isLt
  simp only [Handle.unsettled, Handle.arming, Handle.withPhase, BitVec.toNat_sub, BitVec.toNat_ofNat]
  omega

/-- The handle with a DMA request in flight is sound (R252, R258). -/
theorem Handle.Settled.flying {h : Handle} (s : h.Settled) (hi : h.identState = .selected) {ctx : BitVec 4}
    (hc : ctx = ctxDmaRead ∨ ctx = ctxDmaWrite) (d : ContDesc) (reg : RegAddr) (buf size : Word) (len : Nat) :
    ((h.arming ctx d reg buf size len).withIrqMask (h.irqMask ||| terminalFlags)).Inv :=
  have dma : ctxIsDma ctx = true := by rcases hc with rfl | rfl <;> decide
  {
  context_legal := by rcases hc with rfl | rfl <;> simp [Handle.arming, legalContexts]
  context_active := fun _ => rfl
  active_dma := fun _ => dma
  remaining_dma := fun _ => dma
  count_mask := s.count_mask
  mask_bit_zero := s.mask_bit_zero
  next_data := fun _ => rfl
  dma_terminal := fun _ => mask_or_and _ _
  terminal_dma := fun h => nomatch dma.symm.trans h
  mask_sources := mask_or_sources s.sources (by decide)
  line_count := fun hl => s.line (by rwa [← mask_or_other (k := terminalFlags) (by decide)])
  ident_selected := fun _ => hi
  ident_off := fun h => absurd (.inr rfl) h
  removed_default := by simp [Handle.arming]
  errors_low := s.errors }

/-- The handle when the first phase has been dropped (R254). -/
def Handle.aborted (h : Handle) : Handle :=
  (((h.withIrqMask (h.irqMask &&& ~~~terminalFlags)).withRemaining 0).withContext ctxNone).withGlobal .idle

section
variable {E : Fault → Prop} {h : Handle} {M : Memory → Prop} (hE : E .reentrantRequest)
include hE

/-- The abort of a first phase (R254): the handle is `Idle` with nothing enabled. -/
theorem dmaAbort_at (hm : h.Masked) (hl : LandsIn h M) {code : Word} (hc : code &&& 0xFFFFFF00 = 0) :
    Triple E (At h M) (dmaAbort irqPoint code) fun _ => At h.aborted M := by
  have off : (h.withIrqMask (h.irqMask &&& ~~~terminalFlags)).Masked := mask_andNot_and _ _
  refine .bind (at_point hE hm (at_portIrqDisable _)) fun _ => .bind (at_via hE off plain_portDpathDisable) fun _ =>
    .bind (at_via hE off plain_portDmaTeardown) fun _ => .get fun u hu => .bind (at_landDma ?_) fun _ =>
    .bind (at_via hE off (plain_portFlagClear _)) fun _ => .bind (at_orErrors hc) fun _ =>
    .bind (at_updH fun _ => rfl) fun _ => .bind (at_updH fun _ => rfl) fun _ => at_updH fun _ => rfl
  obtain ⟨⟨e, -, hu⟩, -⟩ := hu
  rw [hu]
  exact hl

/-- `READ_EXT_DMA` and `WRITE_EXT_DMA`: the request is in flight, or dropped (R250, R251, R254). -/
theorem dmaBody_ends (i : h.Inv) (hg : h.globalState = .idle) (rw : Bit) {ctx : BitVec 4}
    (hc : ctx = ctxDmaRead ∨ ctx = ctxDmaWrite) (bm opc : Bit) (fn : Fn) (addr : RegAddr) (buf size : Word)
    (hl : ∀ k : Handle, k.context = ctx → k.pXferBuff = buf → k.unsettled = size.toNat → LandsIn k M) :
    Triple E (At h M) (dmaBody rw ctx bm opc fn addr buf size) fun _ => Ends false h M := by
  have s := i.settled (by simp [hg])
  have sel : h.identState = .selected := i.ident_selected (.inl hg)
  refine .get fun u _ => .ite (fun _ => respond_ends i _ _) fun _ => .bind (at_updH fun _ => rfl) fun _ =>
    .bind (at_updH fun _ => rfl) fun _ => .bind (at_updH fun _ => rfl) fun _ => .bind (.get fun v _ => ?_) fun _ =>
    (?_ : Triple E (Ends false h M) (respond _ []) fun _ => Ends false h M)
  · generalize hn : (phasePlan v.params v.h.contDesc.blockMode size v.h.blockSize) = pl
    have hlen : pl.len ≤ size.toNat := hn ▸ phasePlan_len_le ..
    have hm : (h.arming ctx ⟨fn, bm, opc⟩ addr buf size pl.len).Masked := s.isMasked
    refine .bind (at_updH fun _ => rfl) fun _ => .bind (at_via hE hm (plain_portDpathConfig _ _ _ _ _)) fun _ =>
      .bind (at_via hE hm (plain_portDmaProgram _ _)) fun _ => .bind (at_via hE hm plain_portDpathEnable) fun _ =>
      .bind (at_via hE hm (plain_portCmd _ _)) fun _ => .ite (fun _ => ?_) fun _ => ?_
    · refine .bind (at_point hE hm (at_portIrqEnable _)) fun _ => .pure fun t ht =>
        ⟨_, ⟨s.flying sel hc _ addr buf size pl.len, ?_, fun hk => nomatch hk⟩, ht⟩
      show GlobalState.active ∈ _
      rw [hg]
      decide
    · refine .bind (dmaAbort_at hE hm (hl _ rfl rfl (Handle.arming_unsettled hlen)) (errmap_low _)) fun _ =>
        .pure fun t ht => ⟨_, ⟨Handle.Settled.inv (h := (h.arming ctx ⟨fn, bm, opc⟩ addr buf size pl.len).aborted)
          ⟨rfl, rfl, s.count_mask, s.mask_bit_zero, mask_andNot_and _ _, mask_andNot_sources s.sources _, ?_, s.errors⟩
          (by simp [Handle.aborted]) (fun _ => sel) (by simp [Handle.aborted]) (by simp [Handle.aborted]), ?_, fun hk => nomatch hk⟩, ht⟩
      · exact fun hl => s.line (by rwa [← mask_andNot_other (k := terminalFlags) (by decide)])
      · show GlobalState.idle ∈ _
        rw [hg]
        decide
  · intro u hu
    obtain ⟨k, hk, hu⟩ := hu
    exact ⟨k, hk, hu.same rfl rfl⟩

end

/-! ### Requests of a sound state, whether a DMA request is in flight or not -/

section
variable {α : Type} {E : Fault → Prop} {s : State}

/-- A port action that the handler would not see. -/
def Light {α : Type} (p : Act α) : Prop := ∀ s, ∃ a t, p s = .ok (a, t) ∧ Touched s t

theorem light_portCmd (idx : BitVec 6) (arg : Word) : Light (portCmd idx arg) :=
  fun _ => ⟨_, _, rfl, .of_eq rfl rfl rfl rfl rfl rfl rfl⟩
theorem light_portClockHz : Light portClockHz := fun _ => ⟨_, _, rfl, .of_eq rfl rfl rfl rfl rfl rfl rfl⟩
theorem light_respond (st : Word) (vals : List Word) : Light (respond st vals) :=
  fun _ => ⟨_, _, rfl, .of_eq rfl rfl rfl rfl rfl rfl rfl⟩

theorem handled_light {p : Act α} (hp : Light p) : Triple E (Handled s) p fun _ => Handled s := by
  intro u hu
  obtain ⟨a, t, e, ht⟩ := hp u
  rw [e]
  exact hu.trans (ht.handled hu.inv)

variable (hE : E .reentrantRequest)
include hE

theorem handled_irqPoint : Triple E (Handled s) irqPoint fun _ => Handled s := by
  intro u hu
  rcases irqPoint_inv hu.inv with e | ⟨t, e, ht⟩ <;> rw [e]
  · exact hE
  · exact hu.trans ht

theorem handled_via {p : Act α} (hp : Light p) : Triple E (Handled s) (via irqPoint p) fun _ => Handled s :=
  .via (handled_irqPoint hE) (handled_light hp)

theorem handled_getClockFreqBody : Triple E (Handled s) getClockFreqBody fun _ => Handled s :=
  .bind (handled_via hE light_portClockHz) fun _ => .get fun _ _ => handled_light (light_respond _ _)

theorem handled_irqBody : Triple E (Handled s) irqBody fun _ => Handled s := by
  refine .bind (fun u hu => ?_) fun _ => handled_light (light_respond _ _)
  rcases takeInterrupt_inv hu.inv with e | ⟨t, e, ht⟩ <;> rw [e]
  · exact hE
  · exact hu.trans ht

theorem handled_wr52 (fn : Fn) (addr : RegAddr) (v : Byte) :
    Triple E (Handled s) (wr52 irqPoint fn addr v) fun _ => Handled s :=
  .bind (handled_via hE (light_portCmd _ _)) fun _ => .pure fun _ => id

theorem handled_abortActiveBody (fn : Fn) : Triple E (Handled s) (abortActiveBody fn) fun _ => Handled s :=
  .bind (.bind (handled_via hE (light_portCmd _ _)) fun _ => .ite (fun _ => handled_wr52 hE _ _ _) fun _ => .pure fun _ => id)
    fun _ => handled_light (light_respond _ _)

end

/-! ### The end of a DMA request by `DEINIT` and `NOTIFY_REMOVAL` -/

/-- What may have become of memory since a sound state in which a request was in flight: the buffer of a DMA read from the
phase in flight on. -/
def Settling (s : State) (m : Memory) : Prop :=
  m.wf = true ∧ (∀ a, m.read a ≠ s.mem.read a → s.h.inFlight a) ∧
    ((ctxIsDma s.h.context && ctxIsRead s.h.context) = false → m = s.mem)

theorem Settling.refl {s : State} (i : s.Inv) : Settling s s.mem := ⟨i.memory, fun _ h => absurd rfl h, fun _ => rfl⟩

theorem Handled.settling {s t : State} (a : Handled s t) : Settling s t.mem := ⟨a.inv.memory, a.stores, a.mem⟩

/-- What is still in flight may land. -/
theorem Handled.landsIn {s t : State} (a : Handled s t) : LandsIn t.h (Settling s) := by
  intro m m' ⟨w, hs, hm⟩ ⟨hw, hr, hc⟩
  refine ⟨hw w, fun x hx => ?_, fun h => ?_⟩
  · by_cases he : m'.read x = m.read x
    · exact hs x (he ▸ hx)
    · by_cases hd : (ctxIsDma t.h.context && ctxIsRead t.h.context) = true
      · exact a.shrinks x (inFlight_of_changed hd le_rfl hr he)
      · exact absurd (congrArg (Memory.read · x) (hc (by simpa using hd))) he
  · refine (hc ?_).trans (hm h)
    rcases a.context with e | e
    · rw [e]; exact h
    · rw [e]; rfl

/-- The first action of `DEINIT` and `NOTIFY_REMOVAL` in a sound state. -/
theorem disable_handled {E : Fault → Prop} {s : State} (hE : E .reentrantRequest) :
    Triple E (Handled s) (via irqPoint (portIrqDisable allSources)) fun _ t =>
      ∃ k, Disabled false s.h (Settling s) k ∧ At k (Settling s) t := by
  refine .via (handled_irqPoint hE) (.upd fun u hu =>
    ⟨u.h.withIrqMask (u.h.irqMask &&& ~~~allSources), ?_, ⟨u.h.lastErrorCodes, hu.inv.handle.errors_low, rfl⟩,
    hu.settling⟩)
  have off := irqMask_disabled hu.inv.handle.mask_sources
  exact ⟨off.1, off.2.1, off.2.2, hu.inv.handle.errors_low, hu.landsIn, fun hk => nomatch hk⟩

end Sys2Proof.Machine
end

section
/-! What a request, and a step, may do from a sound state. -/

namespace Sys2Proof.Machine

/-- The faults of the requests that wait on the environment (R238, R352). -/
def Instr.waits : Instr → List Fault
  | .enFn _ => [.stuck]
  | .readExt _ _ _ _ _ _ _ => [.stuck, .pumpShort]
  | .writeExt _ _ _ _ _ _ _ => [.stuck, .pumpShort]
  | _ => []

/-- A request may stop for a callback's request, or because it waits. -/
def Instr.mayStop (i : Instr) (f : Fault) : Prop := f = .reentrantRequest ∨ f ∈ Instr.waits i

/-- The requests that write the continuation registers (R26). -/
def Instr.plans : Instr → Bool
  | .init _ _ => true
  | .deinit => true
  | .readExtDma _ _ _ _ _ _ => true
  | .writeExtDma _ _ _ _ _ _ => true
  | _ => false

/-- The request reads from the card into this buffer. -/
def Instr.readsInto (i : Instr) (buf size : Word) : Prop :=
  ∃ bm op fn addr, i = .readExtDma bm op fn addr buf size ∨ ∃ tmo, i = .readExt bm op fn addr buf size tmo

/-- What a request may leave of a sound state. -/
structure Effect (i : Instr) (s t : State) : Prop where
  inv : t.Inv
  global : t.h.globalState ∈ s.h.globalState.nexts
  regs : ctxIsDma s.h.context = false → Instr.plans i = false → t.h.continuation = s.h.continuation
  mem : Settling s t.mem ∨ s.h.globalState ≠ .active ∧ ∃ buf size, Instr.readsInto i buf size ∧
    ∀ a, t.mem.read a ≠ s.mem.read a → buf.toNat ≤ a ∧ a < buf.toNat + size.toNat

/-- What may come of a request in a sound state. -/
def Sound (i : Instr) (s : State) : Host.Outcome State Fault Refusal → Prop
  | .next t => Effect i s t
  | .fault f => Instr.mayStop i f
  | .refused _ => True

/-- The state in which the steps of a request begin (R327). -/
def State.begun (s : State) (i : Instr) : State :=
  { s with h := { s.h with lastErrorCodes := if clearsErrors i s then 0 else s.h.lastErrorCodes } }

section
variable {i : Instr} {s t : State}

theorem Effect.answered (hs : s.Inv) (ws : List Word) : Effect i s (s.answered ws) :=
  ⟨⟨hs.handle, hs.memory⟩, GlobalState.mem_nexts _, fun _ _ => rfl, .inl (.refl hs)⟩

theorem begun_errors (hs : s.Inv) : (if clearsErrors i s then 0 else s.h.lastErrorCodes) &&& 0xFFFFFF00 = 0 := by
  split
  · rfl
  · exact hs.handle.errors_low

theorem begun_at (hs : s.Inv) {M : Memory → Prop} (hM : M s.mem) : At s.h M (s.begun i) :=
  ⟨⟨_, begun_errors hs, rfl⟩, hM⟩

theorem begun_handled (hs : s.Inv) : Handled (s.begun i) (s.begun i) :=
  (Touched.refl _).handled ⟨hs.handle.withErrors (begun_errors hs), hs.memory⟩

theorem sound_request {body : Act Unit} (hs : s.Inv) (hb : accepts i s = true →
    Triple (Instr.mayStop i) (· = s.begun i) body fun _ => Effect i s) : Sound i s (request i body s) := by
  cases hr : refusalOf i with
  | some r => rw [request_refused hr]; trivial
  | none =>
    cases ha : accepts i s with
    | false => rw [request_busy hr ha]; exact .answered hs _
    | true =>
      rw [request_runs hr ha, finish]
      have := hb ha _ rfl
      rw [State.begun] at this
      split <;> rename_i e <;> rw [e] at this <;> exact this

/-- A request that ends with a handle it may leave, and that stores nothing. -/
theorem effect_of_ends {keep : Bool} (hs : s.Inv) (hk : keep = true ∨ Instr.plans i = true)
    (h : Ends keep s.h (· = s.mem) t) : Effect i s t := by
  obtain ⟨k, hn, ⟨⟨e, he, hh⟩, hm⟩⟩ := h
  refine ⟨⟨?_, ?_⟩, ?_, fun _ hp => ?_, .inl ?_⟩
  · rw [hh]; exact hn.inv.withErrors he
  · rw [hm]; exact hs.memory
  · rw [hh]; exact hn.global
  · rw [hh]; exact hn.regs (hk.resolve_right (by simp [hp]))
  · rw [hm]; exact .refl hs

theorem sound_ends {body : Act Unit} {keep : Bool} (hs : s.Inv) (hk : keep = true ∨ Instr.plans i = true)
    (hb : accepts i s = true →
      Triple (Instr.mayStop i) (At s.h (· = s.mem)) body fun _ => Ends keep s.h (· = s.mem)) :
    Sound i s (request i body s) :=
  sound_request hs fun ha => ((hb ha).mono fun _ _ => effect_of_ends hs hk).pre fun _ e => e ▸ begun_at hs rfl

/-- A request that dropped a DMA request in flight, or that the handler alone interrupted: memory may have been written by
the engine. -/
theorem effect_of_settling {h' : Handle} (hi : h'.Inv) (hg : h'.globalState ∈ s.h.globalState.nexts)
    (hr : ctxIsDma s.h.context = false → Instr.plans i = false → h'.continuation = s.h.continuation)
    (ht : At h' (Settling s) t) : Effect i s t := by
  obtain ⟨⟨e, he, hh⟩, hm⟩ := ht
  refine ⟨⟨?_, hm.1⟩, ?_, ?_, .inl hm⟩
  · rw [hh]; exact hi.withErrors he
  · rw [hh]; exact hg
  · rw [hh]; exact hr

theorem effect_of_handled (ha : s.h.globalState = .active) (hs : s.Inv) (h : Handled (s.begun i) t) : Effect i s t := by
  refine ⟨h.inv, ?_, fun hd => absurd ((hs.handle.active_dma ha).symm.trans hd) (by decide), .inl h.settling⟩
  rcases h.global with e | ⟨-, e⟩
  · rw [e]; exact GlobalState.mem_nexts _
  · rw [e, ha]; decide

end

/-! ### The requests -/

theorem extOperandsBad_of_wraps {bm : Bit} {bs buf size : Word} (h : ¬buf.toNat + size.toNat ≤ 2 ^ 32) :
    extOperandsBad bm bs buf size = true := by
  simp only [extOperandsBad, decide_eq_true (Nat.lt_of_not_le h), Bool.or_true]

section
variable {s : State} (hs : s.Inv)

theorem mayStop_reentrant (i : Instr) : Instr.mayStop i .reentrantRequest := .inl rfl

theorem accepts_idle {i : Instr} (hl : legalStates i s = [.idle]) (ha : accepts i s = true) : s.h.globalState = .idle := by
  have := accepts_iff.1 ha
  rw [hl] at this
  simpa using this

/-- The requests on settings that are legal in `Init`, `Idle` and `CardRemoved`. -/
theorem accepts_notActive {i : Instr} (hl : legalStates i s = [.init, .idle, .cardRemoved]) (ha : accepts i s = true) :
    s.h.globalState ≠ .active := by
  intro hg
  have := accepts_iff.1 ha
  rw [hl, hg] at this
  exact absurd this (by decide)

include hs

/-- A request of a sound state from `Idle` alone. -/
theorem sound_idle {i : Instr} {body : Act Unit} (hl : legalStates i s = [.idle])
    (hb : s.h.globalState = .idle → Triple (Instr.mayStop i) (At s.h (· = s.mem)) body fun _ => Ends true s.h (· = s.mem)) :
    Sound i s (request i body s) :=
  sound_ends hs (.inl rfl) fun ha => hb (accepts_idle hl ha)

theorem sound_respond (i : Instr) (st : Word) (vals : List Word) : Sound i s (request i (respond st vals) s) :=
  sound_ends (keep := true) hs (.inl rfl) fun _ => respond_ends hs.handle _ _

/-- A request that runs in every sound state in which it is legal: with a DMA request in flight the handler may end that. -/
theorem sound_everywhere {i : Instr} {body : Act Unit}
    (hb : s.h.globalState ≠ .active → Triple (Instr.mayStop i) (At s.h (· = s.mem)) body fun _ => Ends true s.h (· = s.mem))
    (ha : s.h.globalState = .active → Triple (Instr.mayStop i) (Handled (s.begun i)) body fun _ => Handled (s.begun i)) :
    Sound i s (request i body s) := by
  by_cases hg : s.h.globalState = .active
  · exact sound_request hs fun _ => ((ha hg).mono fun _ _ => effect_of_handled hg hs).pre fun _ e => e ▸ begun_handled hs
  · exact sound_ends hs (.inl rfl) fun _ => hb hg

theorem sound_getClockFreq : Sound .getClockFreq s (exec .getClockFreq s) :=
  sound_everywhere hs
    (fun hg => .bind (at_via (mayStop_reentrant _) (hs.handle.settled hg).isMasked plain_portClockHz) fun _ =>
      .get fun _ _ => respond_ends hs.handle _ _)
    fun _ => handled_getClockFreqBody (mayStop_reentrant _)

theorem sound_irqHandler : Sound .irqHandler s (exec .irqHandler s) := by
  refine sound_everywhere hs (fun hg => .bind (fun u hu => ?_) fun _ => respond_ends hs.handle _ _)
    fun _ => handled_irqBody (mayStop_reentrant _)
  rcases takeInterrupt_masked (hu.masked (hs.handle.settled hg).isMasked) with e | ⟨t, e, ht⟩ <;> rw [e]
  · exact mayStop_reentrant _
  · exact hu.touched ht

theorem sound_abortFn (fn : Fn) : Sound (.abortFn fn) s (exec (.abortFn fn) s) := by
  by_cases hg : s.h.globalState = .active
  · refine sound_everywhere hs (absurd hg) fun _ => ?_
    rw [if_pos hg]
    exact handled_abortActiveBody (mayStop_reentrant _) fn
  · refine sound_ends (keep := true) hs (.inl rfl) fun ha => ?_
    rw [if_neg hg]
    have : s.h.globalState = .idle := by
      have := accepts_iff.1 ha
      simp only [legalStates] at this
      split at this <;> simp_all
    exact rmwBody_ends hs.handle this (mayStop_reentrant _) _ _ _

theorem sound_deinit : Sound .deinit s (exec .deinit s) := by
  refine sound_request hs fun _ => ?_
  have ends := deinitBody_at (mayStop_reentrant .deinit) (disable_handled (s := s.begun .deinit) (mayStop_reentrant .deinit))
  refine (ends.mono fun _ t ht => ?_).pre fun _ e => e ▸ begun_handled hs
  obtain ⟨k, hk, ht⟩ := ht
  exact effect_of_settling hk.inv hk.global (fun _ hp => nomatch hp) ht

theorem sound_notifyRemoval : Sound .notifyRemoval s (exec .notifyRemoval s) := by
  by_cases hg : s.h.globalState = .active
  · refine sound_request hs fun _ => ?_
    have ends : Triple (Instr.mayStop .notifyRemoval) (Handled (s.begun .notifyRemoval)) removalBody fun _ t =>
        Ends false s.h (Settling s) t :=
      .bind (toCardRemoved_at (mayStop_reentrant _) (disable_handled (s := s.begun .notifyRemoval) (mayStop_reentrant _)))
        fun _ => .of_exists fun k => .of_exists fun d => .of_and fun hk => (at_plain (plain_respond _ _)).mono fun _ _ =>
          .removed (h := s.h) (M := Settling s) ⟨hk.masked, hk.sources, hk.line, hk.errors, hk.lands, fun h => nomatch h⟩
            (by simp [hg]) (fun h => nomatch h)
    refine (ends.mono fun _ t ht => ?_).pre fun _ e => e ▸ begun_handled hs
    obtain ⟨k, hk, ht⟩ := ht
    exact effect_of_settling hk.inv hk.global (fun hd => nomatch (hs.handle.active_dma hg).symm.trans hd) ht
  · have st := hs.handle.settled hg
    refine sound_ends (keep := true) hs (.inl rfl) fun ha =>
      .bind (toCardRemoved_at (mayStop_reentrant _) (disable_settled st true (mayStop_reentrant _))) fun _ =>
      .of_exists fun k => .of_exists fun d => .of_and fun hk => (at_plain (plain_respond _ _)).mono fun _ _ =>
        .removed hk (fun hr => ?_) fun _ => st.remaining
    have := accepts_iff.1 ha
    simp [legalStates, hr] at this

theorem sound_init (x : Bit) (n : Word) : Sound (.init x n) s (exec (.init x n) s) := by
  refine sound_ends (keep := false) hs (.inr rfl) fun ha => ?_
  have hr : s.h.globalState = .reset := by simpa [legalStates] using accepts_iff.1 ha
  exact initBody_ends hs.handle (by simp [hr]) (mayStop_reentrant _) hr _ _

theorem sound_setConfig (c hw p e : Bit) (w : BitVec 2) (hz : Word) :
    Sound (.setConfig c hw p e w hz) s (exec (.setConfig c hw p e w hz) s) := by
  refine sound_ends (keep := true) hs (.inl rfl) fun ha => configure_ends (mayStop_reentrant _) hs.handle ?_ _ _ _ _ _
  have : s.h.globalState = .init ∨ s.h.globalState = .idle := by simpa [legalStates] using accepts_iff.1 ha
  exact this.imp_right .inl

theorem sound_notifyInsertion (c hw p e : Bit) (w : BitVec 2) (hz : Word) :
    Sound (.notifyInsertion c hw p e w hz) s (exec (.notifyInsertion c hw p e w hz) s) := by
  refine sound_ends (keep := true) hs (.inl rfl) fun ha => configure_ends (mayStop_reentrant _) hs.handle ?_ _ _ _ _ _
  have : s.h.globalState = .cardRemoved := by simpa [legalStates] using accepts_iff.1 ha
  exact .inr (.inr this)

/-- A read whose buffer does not wrap stores in its buffer alone. -/
theorem effect_of_stored {i : Instr} {t : State} {keep : Bool} {buf size : Word}
    (hk : keep = true ∨ Instr.plans i = true) (hg : s.h.globalState = .idle) (hi : Instr.readsInto i buf size)
    (hb : buf.toNat + size.toNat ≤ 2 ^ 32) (h : Ends keep s.h (Stored s.mem buf size.toNat) t) : Effect i s t := by
  obtain ⟨k, hn, ⟨⟨e, he, hh⟩, hm⟩⟩ := h
  refine ⟨⟨?_, hm.1 hs.memory⟩, ?_, fun _ hp => ?_, .inr ⟨by simp [hg], buf, size, hi, fun a ha => hm.bounds hb ha⟩⟩
  · rw [hh]; exact hn.inv.withErrors he
  · rw [hh]; exact hn.global
  · rw [hh]; exact hn.regs (hk.resolve_right (by simp [hp]))

/-- A read: in its buffer where that does not wrap, and else turned away (R224 (d)). -/
theorem sound_read {i : Instr} {keep : Bool} {buf size : Word} {body : Act Unit} (hk : keep = true ∨ Instr.plans i = true)
    (hl : legalStates i s = [.idle]) (hi : Instr.readsInto i buf size)
    (hbad : ¬buf.toNat + size.toNat ≤ 2 ^ 32 → ∀ u, body u = respond stInvalidParam [] u)
    (hb : s.h.globalState = .idle → Triple (Instr.mayStop i) (At s.h (Stored s.mem buf size.toNat)) body fun _ =>
      Ends keep s.h (Stored s.mem buf size.toNat)) : Sound i s (request i body s) := by
  by_cases hw : buf.toNat + size.toNat ≤ 2 ^ 32
  · exact sound_request hs fun ha =>
      ((hb (accepts_idle hl ha)).mono fun _ _ => effect_of_stored hs hk (accepts_idle hl ha) hi hw).pre
        fun _ e => e ▸ begun_at hs (.refl _ _ _)
  · rw [show body = respond stInvalidParam [] from funext (hbad hw)]
    exact sound_respond hs _ _ _

theorem sound_readExt (bm op : Bit) (fn : Fn) (addr : RegAddr) (buf size tmo : Word) :
    Sound (.readExt bm op fn addr buf size tmo) s (exec (.readExt bm op fn addr buf size tmo) s) := by
  refine sound_read (keep := true) hs (.inl rfl) rfl ⟨bm, op, fn, addr, .inr ⟨tmo, rfl⟩⟩ (fun hw u => ?_) fun hg =>
    readExtBody_ends (E := Instr.mayStop (.readExt bm op fn addr buf size tmo)) (mayStop_reentrant _)
      (.inr (by simp [Instr.waits])) (.inr (by simp [Instr.waits])) hs.handle hg _ _ _ _ _ _ _ _ _
  simp only [pollBody, bind_apply, get_apply, extOperandsBad_of_wraps hw, Bool.true_or, if_true]

theorem sound_readExtDma (bm op : Bit) (fn : Fn) (addr : RegAddr) (buf size : Word) :
    Sound (.readExtDma bm op fn addr buf size) s (exec (.readExtDma bm op fn addr buf size) s) := by
  refine sound_read (keep := false) hs (.inr rfl) rfl ⟨bm, op, fn, addr, .inl rfl⟩ (fun hw u => ?_) fun hg =>
    dmaBody_ends (mayStop_reentrant _) hs.handle hg _ (.inl rfl) _ _ _ _ _ _ fun k _ hp hu m m' hm hl =>
      ⟨fun w => hl.1 (hm.1 w), fun x hx => (hl.2.1 x ?_).trans (hm.2 x hx)⟩
  · simp only [dmaBody, bind_apply, get_apply, extOperandsBad_of_wraps hw, Bool.true_or, if_true]
  · rw [hp, hu]
    exact hx

/-- What may come of every request in a sound state. -/
theorem sound_exec (i : Instr) : Sound i s (exec i s) := by
  have hE := mayStop_reentrant i
  have hi := hs.handle
  cases i with
  | setSpeedMode | resetCard | dlybConfig | dlybCalibrate => trivial
  | init => exact sound_init hs _ _
  | deinit => exact sound_deinit hs
  | setConfig => exact sound_setConfig hs _ _ _ _ _ _
  | notifyInsertion => exact sound_notifyInsertion hs _ _ _ _ _ _
  | notifyRemoval => exact sound_notifyRemoval hs
  | getConfig | getBusWidth | getDataTimeout => exact sound_respond hs _ _ _
  | getClockFreq => exact sound_getClockFreq hs
  | setBusWidth => exact sound_idle hs rfl fun hg => setBusWidthBody_ends hi hg hE _
  | setClockFreq => exact sound_idle hs rfl fun hg => setClockFreqBody_ends hi (by simp [hg]) hE hg _
  | setBlockSize => exact sound_idle hs rfl fun hg => setBlockSizeBody_ends hi hg hE _ _
  | setDataTimeout =>
    exact sound_ends hs (.inl rfl) fun ha => setDataTimeoutBody_ends hi (accepts_notActive rfl ha) _
  | regCallback => exact sound_ends hs (.inl rfl) fun ha => regCallbackBody_ends hi (accepts_notActive rfl ha) _ _ _
  | readDirect | writeDirect => exact sound_idle hs rfl fun hg => directBody_ends hi hg hE _ _ _ _ _
  | readExt => exact sound_readExt hs _ _ _ _ _ _ _
  | writeExt =>
    exact sound_idle hs rfl fun hg =>
      writeExtBody_ends hE (.inr (by simp [Instr.waits])) (.inr (by simp [Instr.waits])) hi hg _ _ _ _ _ _ _
  | readExtDma => exact sound_readExtDma hs _ _ _ _ _ _
  | writeExtDma =>
    refine sound_ends (keep := false) hs (.inr rfl) fun ha => dmaBody_ends hE hi (accepts_idle rfl ha) _ (.inr rfl) _ _ _ _
      _ _ fun k hc _ _ m m' hm hl => (hl.2.2 ?_).trans hm
    rw [hc]
    rfl
  | irqHandler => exact sound_irqHandler hs
  | getCccr => exact sound_idle hs rfl fun hg => snapshotBody_ends hE hi hg _ _
  | getFbr =>
    exact sound_idle hs rfl fun hg =>
      .ite (fun _ => respond_ends hi _ _) fun _ => snapshotBody_ends hE hi hg _ _
  | enFnIrq => exact sound_idle hs rfl fun hg => enFnIrqBody_ends hE hi hg _
  | disFnIrq => exact sound_idle hs rfl fun hg => disFnIrqBody_ends hE hi hg _
  | enFn => exact sound_idle hs rfl fun hg => enFnBody_ends hi hg hE (.inr (by simp [Instr.waits])) _
  | disFn =>
    exact sound_idle hs rfl fun hg =>
      .ite (fun _ => respond_ends hi _ _) fun _ => rmwBody_ends hi hg hE _ _ _
  | selFn => exact sound_idle hs rfl fun hg => rmwBody_ends hi hg hE _ _ _
  | abortFn => exact sound_abortFn hs _

end

end Sys2Proof.Machine
end

section
/-! The statements on every step from a sound state: what it keeps, where the global state goes, what it may store and how
it may stop. -/

namespace Sys2Proof.Machine

/-- What a step may leave of a sound state. -/
structure StepEffect (s t : State) : Prop where
  inv : t.Inv
  global : t.h.globalState ∈ s.h.globalState.nexts
  mem : Settling s t.mem ∨ s.h.globalState ≠ .active ∧ ∃ i rest buf size, decode s.requests = .instr i rest ∧
    Instr.readsInto i buf size ∧ ∀ a, t.mem.read a ≠ s.mem.read a → buf.toNat ≤ a ∧ a < buf.toNat + size.toNat

/-- What may come of a step in a sound state. -/
def SoundStep (s : State) : Host.Outcome State Fault Refusal → Prop
  | .next t => StepEffect s t
  | .fault f => (f = .reentrantRequest ∧ ¬s.noReentry) ∨ ∃ i rest, decode s.requests = .instr i rest ∧ f ∈ Instr.waits i
  | .refused _ => True

section
variable {s : State} (hs : s.Inv)
include hs

/-- A step that puts a response on the port, and writes no more than the error mask. -/
theorem StepEffect.answered {e : Word} (he : e &&& 0xFFFFFF00 = 0) (rest : List Word) (ws : List Word) :
    StepEffect s (State.answered { s with requests := rest, h := s.h.withErrors e } ws) :=
  ⟨⟨hs.handle.withErrors he, hs.memory⟩, GlobalState.mem_nexts _, .inl (.refl hs)⟩

theorem soundStep_malformed (i : Instr) (rest : List Word) : SoundStep s (answerMalformed i { s with requests := rest }) := by
  have hs' : State.Inv { s with requests := rest } := ⟨hs.handle, hs.memory⟩
  rw [answerMalformed]
  cases hr : refusalOf i with
  | some r => rw [request_refused hr]; trivial
  | none =>
    cases ha : accepts i { s with requests := rest } with
    | false =>
      rw [request_busy hr ha]
      exact .answered hs hs.handle.errors_low rest [stBusy]
    | true =>
      rw [request_runs hr ha]
      exact .answered hs (begun_errors (i := i) hs') rest [stInvalidParam]

theorem soundStep_exec {i : Instr} {rest : List Word} (hd : decode s.requests = .instr i rest) :
    SoundStep s (exec i { s with requests := rest }) := by
  have hs' : State.Inv { s with requests := rest } := ⟨hs.handle, hs.memory⟩
  have sound := sound_exec hs' i
  have kept := kept_exec i { s with requests := rest }
  cases e : exec i { s with requests := rest } with
  | refused => trivial
  | fault f =>
    rw [e] at sound kept
    exact sound.imp (fun hf => ⟨hf, kept hf⟩) fun hf => ⟨i, rest, hd, hf⟩
  | next t =>
    rw [e] at sound
    exact ⟨sound.inv, sound.global, sound.mem.imp id fun ⟨hg, buf, size, hr, hm⟩ => ⟨hg, i, rest, buf, size, hd, hr, hm⟩⟩

theorem soundStep_runRequest : SoundStep s (runRequest s) := by
  rw [runRequest]
  split
  · exact ⟨hs, GlobalState.mem_nexts _, .inl (.refl hs)⟩
  · exact .answered hs hs.handle.errors_low _ _
  · exact soundStep_malformed hs _ _
  · rename_i hd
    exact soundStep_exec hs hd

theorem soundStep_vectorEntry : SoundStep s (vectorEntry s) := by
  obtain ⟨t, ws, e, -, ht, -⟩ := vectorEntry_inv hs
  rw [e]
  refine ⟨⟨ht.inv.handle, ht.inv.memory⟩, ?_, .inl ht.settling⟩
  rcases ht.global with g | ⟨g, g'⟩
  · rw [show t.h.globalState = s.h.globalState from g]; exact GlobalState.mem_nexts _
  · rw [show t.h.globalState = .idle from g', g]; decide

/-- What may come of every step from a sound state. -/
theorem soundStep_step : SoundStep s (step s) := by
  rw [step, oneStep]
  split
  · exact soundStep_runRequest hs
  · rename_i q rest _
    have hs' : (s.atPoint q rest).Inv := ⟨hs.handle, hs.memory⟩
    have carried : ∀ o, SoundStep (s.atPoint q rest) o → SoundStep s o := fun o ho => by
      cases o with
      | next t => exact ⟨ho.inv, ho.global, ho.mem⟩
      | fault f => exact ho
      | refused => trivial
    dsimp only
    split
    · exact carried _ (soundStep_vectorEntry hs')
    · exact carried _ (soundStep_runRequest hs')

end

theorem stepEffect {s t : State} (hs : s.Inv) (h : step s = .next t) : StepEffect s t := by
  have := soundStep_step hs
  rwa [h] at this

/-- Settles O56: every step from a sound state ends in a sound state. -/
theorem stepKeepsSound : Obligations.StepKeepsSound := fun _ _ hs h => (stepEffect hs h).inv

/-- Settles O57: a request stops for a callback's second request, or where it waits on the environment. -/
theorem onlyWaitsCanFault : Obligations.OnlyWaitsCanFault := by
  intro s f hs h
  have sound := soundStep_step hs
  rw [h] at sound
  rcases sound with ⟨rfl, hn⟩ | ⟨i, rest, hd, hf⟩
  · exact ⟨by decide, fun h => absurd h hn⟩
  · cases i with
    | enFn fn =>
      obtain rfl : f = .stuck := by simpa [Instr.waits] using hf
      exact ⟨by decide, fun _ => .inl ⟨rfl, fn, rest, hd⟩⟩
    | readExt bm op fn addr buf size tmo =>
      have hf : f = .stuck ∨ f = .pumpShort := by simpa [Instr.waits] using hf
      exact ⟨by rintro rfl; simp at hf, fun _ => .inr ⟨hf, bm, op, fn, addr, buf, size, tmo, rest, .inl hd⟩⟩
    | writeExt bm op fn addr buf size tmo =>
      have hf : f = .stuck ∨ f = .pumpShort := by simpa [Instr.waits] using hf
      exact ⟨by rintro rfl; simp at hf, fun _ => .inr ⟨hf, bm, op, fn, addr, buf, size, tmo, rest, .inr hd⟩⟩
    | _ => cases hf

/-- Settles O58: the global state after a step is one of those that its state before allows. -/
theorem globalStateTransitions : Obligations.GlobalStateTransitions := by
  intro s t hs h
  have hg := (stepEffect hs h).global
  refine ⟨?_, ?_, ?_, ?_, ?_⟩ <;> intro e <;> rw [e] at hg <;> simpa [GlobalState.nexts] using hg

/-- Settles O60: outside `Active` a step stores in the buffer of a decoded read alone, and in `Active` where the engine may
still write. -/
theorem storesStayInReadBuffers : Obligations.StoresStayInReadBuffers := by
  intro s t hs h
  have hm := (stepEffect hs h).mem
  refine ⟨fun hg a ha => ?_, fun hg hr => ?_, fun hg _ a ha => ?_⟩
  · rcases hm with hm | ⟨-, i, rest, buf, size, hd, ⟨bm, op, fn, addr, hi⟩, hb⟩
    · obtain ⟨hc, -⟩ := hm.2.1 a ha
      rw [hs.handle.context_zero hg] at hc
      cases hc
    · refine ⟨bm, op, fn, addr, buf, size, rest, ?_, hb a ha⟩
      rcases hi with rfl | ⟨tmo, rfl⟩
      · exact .inl hd
      · exact .inr ⟨tmo, hd⟩
  · obtain hm := hm.resolve_right fun h => h.1 hg
    exact hm.2.2 (by rw [show ctxIsRead s.h.context = false from hr, Bool.and_false])
  · obtain hm := hm.resolve_right fun h => h.1 hg
    exact (hm.2.1 a ha).2

/-! ### Who writes what -/

section
variable {w : Footprint} {s t : State} (r : Ran w s t)
include r

theorem Ran.instanceId (hw : w.ident = false) : t.h.instanceId = s.h.instanceId := by
  simpa [Footprint.rest, hw] using congrArg Handle.instanceId r.rest
theorem Ran.transceiverMode (hw : w.xcvr = false) : t.h.transceiverMode = s.h.transceiverMode := by
  simpa [Footprint.rest, hw] using congrArg Handle.transceiverMode r.rest
theorem Ran.dataTimeoutCycles (hw : w.timeout = false) : t.h.dataTimeoutCycles = s.h.dataTimeoutCycles := by
  simpa [Footprint.rest, hw] using congrArg Handle.dataTimeoutCycles r.rest
theorem Ran.blockSize (hw : w.blockSize = false) : t.h.blockSize = s.h.blockSize := by
  simpa [Footprint.rest, hw] using congrArg Handle.blockSize r.rest
theorem Ran.slots (hw : w.slots = false) : t.h.fnCb = s.h.fnCb ∧ t.h.cbRxComplete = s.h.cbRxComplete ∧
    t.h.cbTxComplete = s.h.cbTxComplete ∧ t.h.cbError = s.h.cbError ∧ t.h.cbTransceiver = s.h.cbTransceiver := by
  have e := r.rest
  simp only [Footprint.rest, hw, Handle.mk.injEq] at e
  simp_all
theorem Ran.fnIrq (hw : w.fnIrq = false) : t.h.fnIrqMask = s.h.fnIrqMask ∧ t.h.fnIrqCount = s.h.fnIrqCount := by
  have e := r.rest
  simp only [Footprint.rest, hw, Handle.mk.injEq] at e
  simp_all
theorem Ran.cfg (hw : w.cfg = false) : t.h.cfg = s.h.cfg := by
  simpa [Footprint.rest, hw] using congrArg Handle.cfg r.rest
theorem Ran.contDesc (hw : w.desc = false) : t.h.contDesc = s.h.contDesc := by
  simpa [Footprint.rest, hw] using congrArg Handle.contDesc r.rest

end

end Sys2Proof.Machine
end

section
/-! Which requests have a setting in their footprint, and with that who writes what (O59). -/

namespace Sys2Proof.Machine

/-- What a step changed is in the footprint of its request. -/
theorem changed_writes {w : Bool} {P : Prop} (keeps : w = false → ¬P) (h : P) : w = true := by
  cases w with
  | true => rfl
  | false => exact absurd h (keeps rfl)

section
variable {i : Instr}

theorem writes_ident (h : (writes i).ident = true) : ∃ x n, i = .init x n := by
  cases i
  case init => simp
  all_goals cases h
theorem writes_xcvr (h : (writes i).xcvr = true) : (∃ x n, i = .init x n) ∨ i = .deinit := by
  cases i
  case init | deinit => simp
  all_goals cases h
theorem writes_timeout (h : (writes i).timeout = true) :
    (∃ x n, i = .init x n) ∨ i = .deinit ∨ ∃ v, i = .setDataTimeout v := by
  cases i
  case init | deinit | setDataTimeout => simp
  all_goals cases h
theorem writes_blockSize (h : (writes i).blockSize = true) :
    (∃ x n, i = .init x n) ∨ i = .deinit ∨ ∃ fn v, i = .setBlockSize fn v := by
  cases i
  case init | deinit | setBlockSize => simp
  all_goals cases h
theorem writes_slots (h : (writes i).slots = true) :
    (∃ x n, i = .init x n) ∨ i = .deinit ∨ ∃ fn sel cb, i = .regCallback fn sel cb := by
  cases i
  case init | deinit | regCallback => simp
  all_goals cases h
theorem writes_fnIrq (h : (writes i).fnIrq = true) :
    (∃ x n, i = .init x n) ∨ i = .deinit ∨ i = .notifyRemoval ∨ (∃ c hw p e w hz, i = .setConfig c hw p e w hz) ∨
      (∃ c hw p e w hz, i = .notifyInsertion c hw p e w hz) ∨ ∃ fn, i = .enFnIrq fn ∨ i = .disFnIrq fn := by
  cases i
  case init | deinit | notifyRemoval | setConfig | notifyInsertion | enFnIrq | disFnIrq => simp
  all_goals cases h
theorem writes_cfg (h : (writes i).cfg = true) :
    (∃ x n, i = .init x n) ∨ i = .deinit ∨ i = .notifyRemoval ∨ (∃ c hw p e w hz, i = .setConfig c hw p e w hz) ∨
      (∃ c hw p e w hz, i = .notifyInsertion c hw p e w hz) ∨ (∃ v, i = .setBusWidth v) ∨ ∃ v, i = .setClockFreq v := by
  cases i
  case init | deinit | notifyRemoval | setConfig | notifyInsertion | setBusWidth | setClockFreq => simp
  all_goals cases h
theorem writes_desc (h : (writes i).desc = true) :
    (∃ x n, i = .init x n) ∨ i = .deinit ∨ (∃ bm op fn a b n, i = .readExtDma bm op fn a b n) ∨
      ∃ bm op fn a b n, i = .writeExtDma bm op fn a b n := by
  cases i
  case init | deinit | readExtDma | writeExtDma => simp
  all_goals cases h
theorem plans_cases (h : Instr.plans i = true) :
    (∃ x n, i = .init x n) ∨ i = .deinit ∨ (∃ bm op fn a b n, i = .readExtDma bm op fn a b n) ∨
      ∃ bm op fn a b n, i = .writeExtDma bm op fn a b n := by
  cases i
  case init | deinit | readExtDma | writeExtDma => simp
  all_goals cases h

end

/-- Outside a DMA request only those that plan one, `INIT` and `DEINIT` write the continuation registers (R26). -/
theorem continuation_written {i : Instr} {s t : State} (hs : s.Inv) (h : exec i s = .next t)
    (hne : t.h.continuation ≠ s.h.continuation) : Instr.plans i = true ∨ ctxIsDma s.h.context = true := by
  have e := sound_exec hs i
  rw [h] at e
  cases hd : ctxIsDma s.h.context with
  | true => exact .inr rfl
  | false => exact .inl (changed_writes (fun hp => not_not_intro (e.regs hd hp)) hne)

/-- Settles O59: every setting that a step changed is in the footprint of its request. -/
theorem whoWritesWhat : Obligations.WhoWritesWhat := by
  intro s t i h
  have r : Ran (footprint i s) s t := by
    have := kept_exec i s
    rwa [h] at this
  refine ⟨r.params, fun c => writes_ident (changed_writes (fun e => not_not_intro (r.instanceId e)) c),
    fun c => writes_xcvr (changed_writes (fun e => not_not_intro (r.transceiverMode e)) c),
    fun c => writes_timeout (changed_writes (fun e => not_not_intro (r.dataTimeoutCycles e)) c),
    fun c => writes_blockSize (changed_writes (fun e => not_not_intro (r.blockSize e)) c),
    fun c => writes_slots (changed_writes (fun e => ?_) c), fun c => writes_fnIrq (changed_writes (fun e => ?_) c),
    fun c => writes_cfg (changed_writes (fun e => not_not_intro (r.cfg e)) c),
    fun c => writes_desc (changed_writes (fun e => not_not_intro (r.contDesc e)) c), fun hs c => ?_, fun hc => ?_, r.flags⟩
  · obtain ⟨h1, h2, h3, h4, h5⟩ := r.slots e
    simp [h1, h2, h3, h4, h5]
  · obtain ⟨h1, h2⟩ := r.fnIrq e
    simp [h1, h2]
  · have hne : t.h.continuation ≠ s.h.continuation := fun e => by simp_all [Handle.continuation]
    rcases continuation_written hs h hne with hp | hd
    · rcases plans_cases hp with h | h | h | h <;> simp [h]
    · exact .inr (.inr (.inr (.inr hd)))
  · exact r.errors (by simpa [footprint] using hc)

end Sys2Proof.Machine
end

section
/-! The statements on the step and on the state check: which request a step runs (O4), what it answers to words that are no
request (O6, O7) and in a wrong state (O8), and the machine after power-on (O55). -/

namespace Sys2Proof.Machine

/-! ### The step -/

section
variable {s : State}

theorem step_noPoint (h : s.env.irqSchedule = []) : step s = runRequest s := by
  simp only [step, oneStep, h]

/-- An interruption point that lets the request run: not taken, or with the line low (R330). -/
theorem step_passed {q : IrqPoint} {sched : List IrqPoint} (h : s.env.irqSchedule = q :: sched)
    (hl : q.taken = false ∨ irqLine (s.atPoint q sched) = false) : step s = runRequest (s.atPoint q sched) := by
  have : (q.taken && irqLine (s.atPoint q sched)) = false := by rcases hl with e | e <;> simp [e]
  simp only [step, oneStep, h, this]
  rfl

/-- An interruption point that is taken with the line asserted: the entry from the vector (R330). -/
theorem step_taken {q : IrqPoint} {sched : List IrqPoint} (h : s.env.irqSchedule = q :: sched) (ht : q.taken = true)
    (hl : irqLine (s.atPoint q sched) = true) : step s = vectorEntry (s.atPoint q sched) := by
  simp only [step, oneStep, h, ht, hl]
  rfl

theorem runRequest_instr {i : Instr} {rest : List Word} (h : decode s.requests = .instr i rest) :
    runRequest s = exec i { s with requests := rest } := by
  simp only [runRequest, h]

theorem runRequest_waiting (h : decode s.requests = .waiting) : runRequest s = .next s := by
  simp only [runRequest, h]

theorem runRequest_reserved {rest : List Word} (h : decode s.requests = .reserved rest) :
    runRequest s = .next (State.answered { s with requests := rest } [stInvalidParam]) := by
  simp only [runRequest, h, answerReserved, finish_respond]

theorem runRequest_malformed {i : Instr} {rest : List Word} (h : decode s.requests = .malformed i rest) :
    runRequest s = request i (respond stInvalidParam []) { s with requests := rest } := by
  simp only [runRequest, h, answerMalformed]

end

/-- Settles O4: the interruption point before the request lets it run, and what runs is what the words decode to. -/
theorem stepRunsDecodedRequest : Obligations.StepRunsDecodedRequest := fun _ =>
  ⟨fun _ _ hd =>
    ⟨fun h => (step_noPoint h).trans (runRequest_instr hd), fun _ _ h hl =>
      (step_passed h hl).trans (runRequest_instr hd)⟩,
    fun h hd => (step_noPoint h).trans (runRequest_waiting hd)⟩

/-! ### Words that are no request -/

/-- The opcodes the table of R92 leaves out. -/
theorem requestLength_reserved {op : Nat} (h : op = 0 ∨ 0x22 ≤ op) : requestLength op = 0 := by
  unfold requestLength
  split <;> first | rfl | omega

/-- Settles O6: no request has such an opcode, and the answer to one word of it is the response alone. -/
theorem reservedOpcodeAnswered : Obligations.ReservedOpcodeAnswered := by
  intro s w ws hq hr ho
  have hd : decode s.requests = .reserved ws := by rw [hr, decode, requestLength_reserved ho]
  exact ⟨ws, (step_noPoint hq).trans (runRequest_reserved hd)⟩

/-- Settles O7: the answer of R111 is the body of the request, so that refusal and state check come before it (R327). -/
theorem malformedRequestAnswered : Obligations.MalformedRequestAnswered := by
  intro s i rest hq hd
  rw [step_noPoint hq, runRequest_malformed hd]
  refine ⟨fun _ hr => request_refused hr, fun hr ha => request_busy hr ha, fun hr ha => ?_⟩
  rw [request_runs hr (by exact ha)]
  rfl

/-! ### The state check -/

theorem exec_busy_of_not_accepts {i : Instr} {s : State} (hr : refusalOf i = none) (ha : accepts i s = false) :
    exec i s = .next (s.answered [stBusy]) :=
  exec_busy hr fun hm => Bool.false_ne_true (ha.symm.trans (accepts_iff.2 hm))

/-- A request that is legal in `Idle` alone is answered `ST_BUSY` elsewhere (R350). -/
theorem exec_busy_notIdle {i : Instr} {s : State} (hg : s.h.globalState ≠ .idle) (hr : refusalOf i = none)
    (hl : legalStates i s = [.idle]) : exec i s = .next (s.answered [stBusy]) :=
  exec_busy hr (by simpa [hl] using hg)

/-- `ABORT_FN` is legal in `Idle`, and in `Active` where the parameter and a DMA request allow it (R288, R350). -/
theorem legalStates_abortFn {s : State} {fn : Fn} (hg : s.h.globalState ≠ .idle)
    (h : ¬(s.h.globalState = .active ∧ s.params.abortWhileActive = true ∧ s.h.context.getLsbD 3 = true)) :
    s.h.globalState ∉ legalStates (.abortFn fn) s := by
  simp only [legalStates]
  split
  · rename_i hc
    obtain ⟨hp, hd⟩ := Bool.and_eq_true_iff.1 hc
    simp only [List.mem_cons, List.not_mem_nil, or_false, not_or]
    exact ⟨hg, fun ha => h ⟨ha, hp, hd⟩⟩
  · simpa using hg

/-- Settles O8: `ST_BUSY` is the answer outside the legal states, which the table of R350 lists request by request. -/
theorem wrongStateAnsweredBusy : Obligations.WrongStateAnsweredBusy := by
  refine ⟨fun i s => exec_busy_of_not_accepts, fun s => ⟨fun hg x n => ?_, fun h1 h2 _ _ _ _ _ => ?_, fun hg => ?_,
    fun hg => ?_, fun hg _ _ _ _ _ => ?_, fun hg => ⟨fun v => ?_, fun fn sel cb => ?_⟩, fun hg => ?_, fun hg h fn => ?_⟩⟩
  · exact exec_busy rfl (by simpa [legalStates] using hg)
  · exact exec_busy rfl (by simpa [legalStates] using ⟨h1, h2⟩)
  · have illegal := not_mem_configReadable hg
    exact ⟨exec_busy rfl illegal, exec_busy rfl illegal, exec_busy rfl illegal⟩
  · exact ⟨exec_busy rfl (by simp [legalStates, hg]), exec_busy rfl (by simp [legalStates, hg])⟩
  · exact exec_busy rfl (by simpa [legalStates] using hg)
  · exact exec_busy rfl (by rcases hg with e | e <;> simp [legalStates, e])
  · exact exec_busy rfl (by rcases hg with e | e <;> simp [legalStates, e])
  · have busy : ∀ {i : Instr}, refusalOf i = none → legalStates i s = [.idle] → exec i s = .next (s.answered [2]) :=
      exec_busy_notIdle hg
    exact ⟨fun _ => busy rfl rfl, fun _ => busy rfl rfl, fun _ _ => busy rfl rfl, fun _ _ _ => busy rfl rfl,
      fun _ _ _ _ => busy rfl rfl, fun _ _ _ _ _ _ _ => busy rfl rfl, fun _ _ _ _ _ _ _ => busy rfl rfl,
      fun _ _ _ _ _ _ => busy rfl rfl, fun _ _ _ _ _ _ => busy rfl rfl, busy rfl rfl, fun _ =>
      ⟨busy rfl rfl, busy rfl rfl, busy rfl rfl, busy rfl rfl, busy rfl rfl, busy rfl rfl⟩⟩
  · exact exec_busy rfl (legalStates_abortFn hg h)

/-! ### Power-on -/

theorem Handle.powerOn_inv : Handle.powerOn.Inv where
  context_legal := by decide
  context_active := fun h => absurd rfl h
  active_dma := fun h => nomatch h
  remaining_dma := fun h => absurd rfl h
  count_mask := by decide
  mask_bit_zero := rfl
  next_data := fun h => nomatch h
  dma_terminal := fun h => nomatch h
  terminal_dma := fun _ => rfl
  mask_sources := rfl
  line_count := fun h => absurd rfl h
  ident_selected := fun h => by rcases h with h | h <;> cases h
  ident_off := fun _ => rfl
  removed_default := fun h => nomatch h
  errors_low := rfl

/-- Settles O55: nothing is in flight, enabled or counted after power-on, and memory lists nothing. -/
theorem resetIsSound : Obligations.ResetIsSound := ⟨⟨Handle.powerOn_inv, Memory.wf_reset⟩, rfl, rfl, rfl, rfl⟩

end Sys2Proof.Machine
end

section
/-! Running the pieces of an operation one after another where no interruption point is due: the state after each piece is
the one the next begins in. -/

namespace Sys2Proof.Machine

section
variable {α β : Type} {s t : State} {r : Except Fault (β × State)}

theorem run_bind {m : Act α} {f : α → Act β} {a : α} (h : m s = .ok (a, t)) (k : f a t = r) : (m >>= f) s = r := by
  rw [bind_apply, h]
  exact k

theorem run_get {f : State → Act β} (k : f s s = r) : (get >>= f) s = r := k

theorem run_ite_pos {c : Prop} [Decidable c] {m n : Act β} (hc : c) (k : m s = r) : (if c then m else n) s = r := by
  rw [if_pos hc]
  exact k

theorem run_ite_neg {c : Prop} [Decidable c] {m n : Act β} (hc : ¬c) (k : n s = r) : (if c then m else n) s = r := by
  rw [if_neg hc]
  exact k

/-- An interruption point that is not due, and a port action. -/
theorem run_via {p : Act β} (hq : s.env.irqSchedule = []) (k : p s = r) : via irqPoint p s = r :=
  (via_quiet p hq).trans k

theorem run_wr52 {f : Word → Act β} {fn : Fn} {addr : RegAddr} {v : Byte} (hq : s.env.irqSchedule = [])
    (k : f s.env.cmdAnswer.err { s with
      env := s.env.afterCmd, trace := .cmd cmdDirect (enc52 1 fn 0 addr v) :: s.trace } = r) :
    (wr52 irqPoint fn addr v >>= f) s = r :=
  run_bind (wr52_quiet hq fn addr v) k

theorem run_rd52 {f : CmdAnswer → Act β} {fn : Fn} {addr : RegAddr} (hq : s.env.irqSchedule = [])
    (k : f s.env.cmdAnswer { s with
      env := s.env.afterCmd, trace := .cmd cmdDirect (enc52 0 fn 0 addr 0) :: s.trace } = r) :
    (rd52 irqPoint fn addr >>= f) s = r :=
  run_bind (rd52_quiet hq fn addr) k

theorem Env.quiet_afterCmd {e : Env} (h : e.irqSchedule = []) : e.afterCmd.irqSchedule = [] := by simpa using h
theorem Env.quiet_afterClock {e : Env} (h : e.irqSchedule = []) : e.afterClock.irqSchedule = [] := by simpa using h
theorem Env.quiet_afterSample {e : Env} (h : e.irqSchedule = []) (b : Bool) : (e.afterSample b).irqSchedule = [] := by
  simpa using h
theorem Env.quiet_afterTick {e : Env} (h : e.irqSchedule = []) : e.afterTick.irqSchedule = [] := by simpa using h

end

section
variable {s : State} {h : Handle}

theorem Handle.withGlobal_self {g : GlobalState} (hg : h.globalState = g) : h.withGlobal g = h := by
  rw [← hg]
  rfl

/-- What is a handle in `Idle` but for the global state is that handle when `Idle` is written. -/
theorem Handle.idle_eq {k : Handle} (hk : k.withGlobal .idle = h.withGlobal .idle) (hg : h.globalState = .idle) :
    k.withGlobal .idle = h :=
  hk.trans (Handle.withGlobal_self hg)

theorem run_respond (st : Word) (vals : List Word) : respond st vals s = .ok ((), s.answered (st :: vals)) := rfl

/-- Back to `Idle` and `ST_OK`: the handle as it is there. -/
theorem run_idleOk (hh : s.h.withGlobal .idle = h) (vals : List Word) :
    idleOk vals s = .ok ((), State.answered { s with h := h } (0 :: vals)) := by
  subst hh
  rfl

/-- An error accumulated on a mask that was cleared first, and `ST_ERROR`: the code is the whole mask (R25). -/
theorem run_raiseErr (hh : s.h = h.clearErrors) (code : Word) :
    raiseErr code s = .ok ((), State.answered { s with h := { h with lastErrorCodes := code } } [1]) := by
  rw [raiseErr_apply, hh, Handle.clearErrors_orErrors]
  rfl

/-- Back to `Idle` with the error of a command, the mask having been cleared first. -/
theorem run_idleError (hh : s.h.withGlobal .idle = h.clearErrors) (err : Word) :
    idleError err s = .ok ((), State.answered { s with h := { h with lastErrorCodes := errmap err } } [1]) := by
  rw [idleError_apply, hh, Handle.clearErrors_orErrors]
  rfl

/-- A handle in `Idle` keeps all but the error mask when an operation has cleared that, entered `Active` and left it. -/
theorem Handle.idle_cleared (hg : h.globalState = .idle) : (h.clearErrors.withGlobal .active).withGlobal .idle =
    h.clearErrors :=
  Handle.withGlobal_active_idle (h := h.clearErrors) hg

end

/-- A request that is legal in `Idle` alone and clears the error mask: its steps, on the state with the mask 0 (R323, R327). -/
theorem runs_fromIdle {i : Instr} {body : Act Unit} {s t : State} (hg : s.h.globalState = .idle)
    (he : exec i s = request i body s) (hr : refusalOf i = none) (hl : legalStates i s = [.idle])
    (hc : clearsErrors i s = true) (hb : body { s with h := s.h.clearErrors } = .ok ((), t)) : exec i s = .next t :=
  he.trans <| (request_runs_cleared hr (by rw [hl, hg]; exact List.mem_singleton_self _) hc).trans (finish_ok hb)

end Sys2Proof.Machine
end

section
/-! The statements on creation and settings (O10, O14 to O19). -/

namespace Sys2Proof.Machine

/-! ### The divider (R165 to R168) -/

/-- The default divider fits its width: `div_of(k, 400000)` where that does, else a free value that does. -/
theorem defaultDiv_fits (k : Word) (s : State) :
    ∃ (d : Word) (n : Nat), defaultDiv k s = .ok (d, { s with env := { s.env with drawn := n } }) ∧
      (k.toNat / 800000 < 2 ^ s.params.divBits → d = BitVec.ofNat 32 (k.toNat / 800000) ∧ n = s.env.drawn) ∧
      d.toNat < 2 ^ s.params.divBits := by
  obtain ⟨d, n, e, h⟩ := defaultDiv_spec (k := k) (s := s) rfl
  refine ⟨d, n, e, h, ?_⟩
  have hd : (if divFits s.params (divOf k Config.defaultClockHz) then divOf k Config.defaultClockHz
      else Config.freeDiv s.env.drawn % 2 ^ s.params.divBits) < 2 ^ s.params.divBits := by
    split
    · exact of_decide_eq_true ‹_›
    · exact Nat.mod_lt _ (Nat.two_pow_pos _)
  have he : _ = d := Except.ok.inj (congrArg (fun r => r.map Prod.fst) e)
  rw [← he, BitVec.toNat_ofNat]
  exact (Nat.mod_le _ _).trans_lt hd

section
variable {s : State} {hz : Word} {next : Word → Word → Act Unit} {r : Except Fault (Unit × State)}

/-- The state after the clock query that every check of a frequency begins with (R167, log 23). -/
def State.clocked (s : State) : State := { s with env := s.env.afterClock, trace := .clockHz :: s.trace }

theorem divFits_eq_false {p : Params} {d : Nat} : divFits p d = false ↔ 2 ^ p.divBits ≤ d := by
  rw [divFits, decide_eq_false_iff_not, Nat.not_lt]

theorem withDivider_rejects (hq : s.env.irqSchedule = [])
    (h : hz = 0 ∨ 2 ^ s.params.divBits ≤ s.env.clock.toNat / (2 * hz.toNat)) :
    withDivider hz next s = .ok ((), s.clocked.answered [4]) := by
  refine run_bind (run_via hq rfl) (run_get ?_)
  by_cases h0 : hz = 0
  · exact run_ite_pos h0 rfl
  · exact run_ite_neg h0 (run_ite_pos (divFits_eq_false.2 (h.resolve_left h0)) rfl)

theorem withDivider_notReady (hq : s.env.irqSchedule = []) (h0 : hz ≠ 0) (hk : s.env.clock = 0)
    (k : raiseErr errInternal s.clocked = r) : withDivider hz next s = r := by
  refine run_bind (run_via hq rfl) (run_get (run_ite_neg h0 (run_ite_neg ?_ (run_ite_pos hk k))))
  rw [hk, divFits_eq_false]
  simp [divOf]

theorem withDivider_goes (hq : s.env.irqSchedule = []) (h0 : hz ≠ 0) (hk : s.env.clock ≠ 0)
    (hd : s.env.clock.toNat / (2 * hz.toNat) < 2 ^ s.params.divBits)
    (k : next s.env.clock (BitVec.ofNat 32 (s.env.clock.toNat / (2 * hz.toNat))) s.clocked = r) :
    withDivider hz next s = r :=
  run_bind (run_via hq rfl) (run_get (run_ite_neg h0 (run_ite_neg (fun e => Nat.not_lt.2 (divFits_eq_false.1 e) hd)
    (run_ite_neg hk k))))

end

/-! ### Creation -/

theorem initBody_quiet {s : State} (hq : s.env.irqSchedule = []) (xcvr : Bit) (inst : Word) :
    ∃ (d : Word) (n : Nat), initBody xcvr inst s = .ok ((), State.answered { s with
        h := Handle.afterInit inst xcvr d
        env := { s.env.afterClock with flags := flagsCleared s.env.flags staticFlags, drawn := n }
        trace := .clockHz :: .flagClear staticFlags :: .irqDisable allSources :: s.trace } [0]) ∧
      (s.env.clock.toNat / 800000 < 2 ^ s.params.divBits →
        d = BitVec.ofNat 32 (s.env.clock.toNat / 800000) ∧ n = s.env.afterClock.drawn) ∧
      d.toNat < 2 ^ s.params.divBits := by
  obtain ⟨d, n, e, hd, hf⟩ := defaultDiv_fits s.env.clock { s with
    h := s.h.withIrqMask (s.h.irqMask &&& ~~~allSources)
    env := Env.afterClock { s.env with flags := flagsCleared s.env.flags staticFlags }
    trace := .clockHz :: .flagClear staticFlags :: .irqDisable allSources :: s.trace }
  rw [Env.afterClock_withFlags] at hd
  refine ⟨d, n, ?_, hd, hf⟩
  refine run_bind (run_via hq rfl) (run_bind (run_via hq rfl) (run_bind (run_via hq rfl) (run_bind e ?_)))
  rw [Env.afterClock_withFlags]
  rfl

/-- Settles O10: the steps of `INIT` end with every field written. -/
theorem initWritesTheHandle : Obligations.InitWritesTheHandle := by
  intro s xcvr inst hq hg
  obtain ⟨d, n, e, hd, hf⟩ := initBody_quiet (s := { s with h := s.h.clearErrors }) hq xcvr inst
  exact ⟨d, n, hd, hf, (request_runs_cleared (i := .init xcvr inst) rfl (List.mem_singleton.2 hg) rfl).trans (finish_ok e)⟩

/-! ### Settings with no port action -/

/-- The states in which the settings that need no card may be written (R350). -/
theorem mem_settable {g : GlobalState} (h : g = .init ∨ g = .idle ∨ g = .cardRemoved) :
    g ∈ [GlobalState.init, .idle, .cardRemoved] := by
  simpa using h

/-- Settles O14: the two steps of `SET_DATA_TIMEOUT`. -/
theorem setDataTimeoutStores : Obligations.SetDataTimeoutStores := fun _ v hg =>
  (request_runs_unchanged (i := .setDataTimeout v) rfl (mem_settable hg) rfl).trans (finish_ok rfl)

section
variable {s : State} {fn : Fn} {sel : BitVec 4} {cb : Word}

theorem regCallback_stores (hg : s.h.globalState ∈ [GlobalState.init, .idle, .cardRemoved])
    (hc : callbackOk fn sel = true) :
    exec (.regCallback fn sel cb) s = .next (State.answered { s with h := s.h.withCallback fn sel cb } [0]) :=
  (request_runs_unchanged (i := .regCallback fn sel cb) rfl hg rfl).trans
    (finish_ok (run_ite_neg (by simp [hc]) rfl))

theorem regCallback_rejects (hg : s.h.globalState ∈ [GlobalState.init, .idle, .cardRemoved])
    (hc : callbackOk fn sel = false) : exec (.regCallback fn sel cb) s = .next (s.answered [4]) :=
  (request_runs_unchanged (i := .regCallback fn sel cb) rfl hg rfl).trans (finish_ok (run_ite_pos hc rfl))

theorem callbackOk_reserved (h : 4 < sel.toNat ∨ (sel = 4 ∧ fn = 0) ∨ (sel ≠ 4 ∧ fn ≠ 0)) :
    callbackOk fn sel = false := by
  unfold callbackOk
  rcases h with h | ⟨rfl, rfl⟩ | ⟨hs, hf⟩
  · rw [if_neg (by rintro rfl; exact absurd h (by decide)), decide_eq_false (by omega)]
    rfl
  · rfl
  · rw [if_neg hs, Bool.and_eq_false_iff]
    exact .inr (by simpa using hf)

end

/-- A slot of a function holds what was registered for it, and the others what they held (R45). -/
theorem FnCb.get_set_self (c : FnCb) {fn : Fn} (h : fn ≠ 0) (v : Word) : (c.set fn.toNat v).get fn.toNat = v := by
  have hf := fn.isLt
  have h0 : fn.toNat ≠ 0 := fun e => h (BitVec.eq_of_toNat_eq e)
  generalize fn.toNat = n at hf h0
  interval_cases n
  · exact absurd rfl h0
  all_goals rfl

theorem FnCb.get_set_other (c : FnCb) {i j : Nat} (h : i ≠ j) (v : Word) : (c.set j v).get i = c.get i := by
  unfold FnCb.get
  split
  case h_8 => rfl
  all_goals
    unfold FnCb.set
    split
    all_goals first | rfl | exact absurd rfl h

/-- Settles O18: an operand R111 reserves is rejected, any other names its slot. -/
theorem regCallbackStores : Obligations.RegCallbackStores := by
  intro s fn sel cb hg
  have hg := mem_settable hg
  refine ⟨?_, ?_, ?_, ?_, fun hf hs => ⟨s.h.fnCb.set fn.toNat cb, s.h.fnCb.get_set_self hf cb,
    fun i hi => s.h.fnCb.get_set_other hi cb, ?_⟩, fun h => regCallback_rejects hg (callbackOk_reserved h)⟩
  · rintro rfl rfl; exact regCallback_stores hg rfl
  · rintro rfl rfl; exact regCallback_stores hg rfl
  · rintro rfl rfl; exact regCallback_stores hg rfl
  · rintro rfl rfl; exact regCallback_stores hg rfl
  · subst hs
    exact regCallback_stores hg (by simpa [callbackOk] using hf)

/-! ### Bus width, clock and block size -/

/-- The two low bits of a width code are the width (R180). -/
theorem width_of_code {v : Word} {w : BitVec 2} (hv : v.toNat = w.toNat) : v.extractLsb' 0 2 = w := by
  have := w.isLt
  apply BitVec.eq_of_toNat_eq
  rw [toNat_field, hv]
  omega

/-- Settles O15: a code above 2 is rejected; else the end is that of the card write. -/
theorem setBusWidthResult : Obligations.SetBusWidthResult := by
  intro s v hq hg
  refine ⟨fun h => runs_fromIdle hg rfl rfl rfl rfl (run_ite_pos h rfl), fun w hv hw b hb => ?_⟩
  have stored : ((s.h.clearErrors.withGlobal .active).withCfg { s.h.cfg with busWidth := w }).withGlobal .idle =
      s.h.clearErrors.withCfg { s.h.cfg with busWidth := w } :=
    Handle.withGlobal_active_idle (h := s.h.clearErrors.withCfg { s.h.cfg with busWidth := w }) hg
  subst hb
  constructor
  all_goals
    intro he
    refine runs_fromIdle hg rfl rfl rfl rfl (run_ite_neg (by omega) (run_bind rfl ?_))
    rw [width_of_code hv]
    refine run_wr52 hq ?_
  · exact run_ite_pos he (run_get (run_bind (run_via (Env.quiet_afterCmd hq) rfl) (run_bind rfl
      (run_idleOk (by exact stored) []))))
  · exact run_ite_neg he (run_idleError (Handle.idle_cleared hg) _)

/-- Settles O16: the checks of R167, and what the steps do when they pass. -/
theorem setClockFreqResult : Obligations.SetClockFreqResult := by
  refine ⟨fun s f hg => exec_busy_notIdle hg rfl rfl, fun s f hq hg => ⟨fun h => ?_, fun h0 hk => ?_, fun h0 hk hd d e => ?_⟩⟩
  all_goals refine runs_fromIdle hg rfl rfl rfl rfl ?_
  · exact withDivider_rejects (s := { s with h := s.h.clearErrors }) hq h
  · exact withDivider_notReady (s := { s with h := s.h.clearErrors }) hq h0 hk (run_raiseErr rfl _)
  · subst e
    exact withDivider_goes (s := { s with h := s.h.clearErrors }) hq h0 hk hd
      (run_get (run_bind (run_via (Env.quiet_afterClock hq) rfl) (run_bind rfl rfl)))

theorem fbrBlockSize_eq (fn : Fn) : fbrBlockSize fn = BitVec.ofNat 17 (0x100 * fn.toNat + 0x10) := by
  rw [BitVec.ofNat_add _ 0x10]
  rfl

theorem fbrBlockSize_high (fn : Fn) : fbrBlockSize fn + 1 = BitVec.ofNat 17 (0x100 * fn.toNat + 0x11) := by
  rw [fbrBlockSize, fbrBase, BitVec.add_assoc, BitVec.ofNat_add _ 0x11]
  rfl

/-- Settles O17: where the card is written, the first error ends the request; the handle's size comes last. -/
theorem setBlockSizeResult : Obligations.SetBlockSizeResult := by
  intro s fn v hq hg
  refine ⟨fun h => runs_fromIdle hg rfl rfl rfl rfl (run_get (run_ite_pos h rfl)), fun h0 hm low high hl hh => ?_⟩
  have hn : ¬(v = 0 ∨ s.params.blockSizeMax < v.toNat) := not_or.2 ⟨h0, Nat.not_lt.2 hm⟩
  have stored : ((s.h.clearErrors.withGlobal .active).withBlockSize v).withGlobal .idle = s.h.clearErrors.withBlockSize v :=
    Handle.withGlobal_active_idle (h := s.h.clearErrors.withBlockSize v) hg
  rw [← fbrBlockSize_eq] at hl
  rw [← fbrBlockSize_high] at hh
  subst hl hh
  refine ⟨fun hc => ?_, fun hc he0 he1 => ?_, fun hc he0 => ?_, fun hc he0 he1 => ?_⟩
  all_goals refine runs_fromIdle hg rfl rfl rfl rfl (run_get (run_ite_neg hn (run_bind rfl ?_)))
  · exact run_ite_neg (Bool.eq_false_iff.1 hc) (run_bind rfl (run_ite_pos rfl (run_bind rfl
      (run_idleOk (by exact stored) []))))
  · refine run_ite_pos hc (run_bind (run_wr52 hq
      (run_ite_pos he0 (wr52_quiet (Env.quiet_afterCmd hq) _ _ _))) (run_ite_pos he1 (run_bind rfl ?_)))
    exact run_idleOk (by exact stored) []
  · refine run_ite_pos hc (run_bind (run_wr52 hq (run_ite_neg he0 rfl)) (run_ite_neg he0 ?_))
    exact run_idleError (Handle.idle_cleared hg) _
  · refine run_ite_pos hc (run_bind (run_wr52 hq
      (run_ite_pos he0 (wr52_quiet (Env.quiet_afterCmd hq) _ _ _))) (run_ite_neg he1 ?_))
    exact run_idleError (Handle.idle_cleared hg) _

/-! ### The parameters of a configuration -/

/-- `SET_CONFIG` and `NOTIFY_INSERTION` run the same steps where they are legal (R170, R178, R350). -/
theorem exec_configures {s t : State} {i : Instr} {hw p e : Bit} {w : BitVec 2} {hz : Word}
    (hi : i = .setConfig 0 hw p e w hz ∧ (s.h.globalState = .init ∨ s.h.globalState = .idle) ∨
      i = .notifyInsertion 0 hw p e w hz ∧ s.h.globalState = .cardRemoved)
    (hb : configure hw p e w hz { s with h := s.h.clearErrors } = .ok ((), t)) : exec i s = .next t := by
  rcases hi with ⟨rfl, hg⟩ | ⟨rfl, hg⟩
  · exact (request_runs_cleared (i := .setConfig 0 hw p e w hz) rfl
      (by rcases hg with e | e <;> simp [legalStates, e]) rfl).trans (finish_ok hb)
  · exact (request_runs_cleared (i := .notifyInsertion 0 hw p e w hz) rfl (by simp [legalStates, hg]) rfl).trans
      (finish_ok hb)

theorem widthOk_iff {w : BitVec 2} : widthOk w = false ↔ w = 3 := by simp [widthOk]

/-- Settles O19: the reserved width is turned away before the checks of R167, which a configuration begins with. -/
theorem configureRejectsParameters : Obligations.ConfigureRejectsParameters := by
  intro s hw p e w hz i hq hi
  refine ⟨fun h3 => exec_configures hi (run_ite_pos (widthOk_iff.2 h3) rfl),
    fun h3 h => exec_configures hi (run_ite_neg (widthOk_iff.not.2 h3) ?_),
    fun h3 h0 hk => exec_configures hi (run_ite_neg (widthOk_iff.not.2 h3) ?_)⟩
  · exact withDivider_rejects (s := { s with h := s.h.clearErrors }) hq h
  · exact withDivider_notReady (s := { s with h := s.h.clearErrors }) hq h0 hk (run_raiseErr rfl _)

end Sys2Proof.Machine
end

section
/-! The statements on words and on the arithmetic of phases (O24 to O28). -/

namespace Sys2Proof.Machine

/-! ### Command words (R105 to R107) -/

/-- Settles O24: the fields stand side by side, so that each counts with the weight of the bits below it. -/
theorem commandWordLayout : Obligations.CommandWordLayout := by
  refine ⟨fun rw raw fn addr data => ?_, fun rw bm op fn addr count => ?_, by decide, by decide, by decide, by decide⟩
  · simp only [enc52, toNat_append_add, show (0 : Bit).toNat = 0 from rfl]
    omega
  · simp only [enc53, toNat_append_add]
    omega

/-! ### Error bits (R236, R324) -/

/-- A flag of one bit is set in a sample exactly when that bit is. -/
theorem flagSet_twoPow (f : Word) {k : Nat} (hk : k < 32) : flagSet f (BitVec.twoPow 32 k) = f.getLsbD k := by
  have h0 : BitVec.twoPow 32 k ≠ 0 := fun e => by simpa [hk] using congrArg (BitVec.getLsbD · k) e
  rw [flagSet, BitVec.and_twoPow]
  cases f.getLsbD k with
  | true => exact bne_iff_ne.2 h0
  | false => rfl

/-- Each error flag gives its own bit (R236). -/
theorem errorsOfFlags_eq (f : Word) : errorsOfFlags f =
    (if f.getLsbD 1 then errDataCrc else 0) ||| (if f.getLsbD 3 then errDataTimeout else 0) |||
      (if f.getLsbD 5 then errRxOverrun else 0) ||| (if f.getLsbD 4 then errTxUnderrun else 0) := by
  rw [← flagSet_twoPow f (k := 1) (by decide), ← flagSet_twoPow f (k := 3) (by decide),
    ← flagSet_twoPow f (k := 5) (by decide), ← flagSet_twoPow f (k := 4) (by decide)]
  rfl

/-- Settles O28: the table of R324, and each error flag with its own bit. -/
theorem errorTranslation : Obligations.ErrorTranslation := by
  refine ⟨rfl, rfl, rfl, rfl, fun e he => ?_, fun f => ?_⟩
  · have : ∀ v : Word, v.toNat ≤ 3 → e ≠ v := fun v hv h => by rw [h] at he; omega
    rw [errmap, if_neg (this 0 (by decide)), if_neg (this 1 (by decide)), if_neg (this 2 (by decide)),
      if_neg (this ceIllegalCmd (by decide))]
    rfl
  · rw [errorsOfFlags_eq]
    cases f.getLsbD 1 <;> cases f.getLsbD 3 <;> cases f.getLsbD 5 <;> cases f.getLsbD 4 <;> decide

/-! ### Blocks and phases (R221 to R229) -/

/-- The test of R221 is being a power of two. -/
theorem pow2_iff (v : Word) : pow2 v = true ↔ ∃ k, v.toNat = 2 ^ k := by
  by_cases h0 : v = 0
  · subst h0
    simp [pow2, (Nat.two_pow_pos _).ne]
  · have hn : v.toNat ≠ 0 := fun e => h0 (BitVec.eq_of_toNat_eq e)
    have hs : (v - 1).toNat = v.toNat - 1 := by
      have := v.isLt
      rw [BitVec.toNat_sub, show (1 : Word).toNat = 1 from rfl]
      omega
    have hp := Nat.and_sub_one_eq_zero_iff_isPowerOfTwo hn
    rw [pow2, bne_iff_ne.2 h0, Bool.true_and, beq_iff_eq, BitVec.toNat_eq, BitVec.toNat_and, hs]
    exact hp

theorem blocks_of_pow2 {bs : Word} (h : pow2 bs = true) (size : Word) : blocks size bs = size.toNat / bs.toNat := if_pos h

theorem blocks_of_not_pow2 {bs : Word} (h : pow2 bs = false) (size : Word) : blocks size bs = 0 := by
  rw [blocks, h]
  rfl

/-- With whole blocks there is a block size. -/
theorem toNat_pos_of_blocks {rem bs : Word} (h : 1 ≤ blocks rem bs) : 1 ≤ bs.toNat := by
  cases hp : pow2 bs with
  | false => rw [blocks_of_not_pow2 hp] at h; omega
  | true =>
    obtain ⟨k, hk⟩ := (pow2_iff bs).1 hp
    rw [hk]
    exact Nat.one_le_two_pow

section
variable {p : Params} {bm : Bit} {rem bs : Word}

theorem phasePlan_block (h : bm = 1 ∧ 1 ≤ blocks rem bs) : phasePlan p bm rem bs =
    ⟨.block, BitVec.ofNat 9 (min (blocks rem bs) p.windowBlocks), min (blocks rem bs) p.windowBlocks * bs.toNat, bs.toNat⟩ :=
  if_pos h

theorem phasePlan_byte (h : ¬(bm = 1 ∧ 1 ≤ blocks rem bs)) : phasePlan p bm rem bs =
    ⟨.byte, BitVec.ofNat 9 (min rem.toNat p.windowBytes), min rem.toNat p.windowBytes, min rem.toNat p.windowBytes⟩ :=
  if_neg h

theorem Params.ok_windows (h : p.ok = true) :
    1 ≤ p.windowBytes ∧ p.windowBytes ≤ 512 ∧ 1 ≤ p.windowBlocks ∧ p.windowBlocks ≤ 511 := by
  simp only [Params.ok, Bool.and_eq_true, decide_eq_true_eq] at h
  omega

/-- A phase takes at least one byte (R223). -/
theorem one_le_phasePlan_len (hp : p.ok = true) (hr : rem ≠ 0) : 1 ≤ (phasePlan p bm rem bs).len := by
  obtain ⟨hb, -, hw, -⟩ := Params.ok_windows hp
  have hr : 1 ≤ rem.toNat := Nat.one_le_iff_ne_zero.2 fun e => hr (BitVec.eq_of_toNat_eq e)
  by_cases h : bm = 1 ∧ 1 ≤ blocks rem bs
  · rw [phasePlan_block h]
    exact Nat.mul_pos (Nat.lt_min.2 ⟨h.2, hw⟩) (toNat_pos_of_blocks h.2)
  · rw [phasePlan_byte h]
    exact Nat.le_min.2 ⟨hr, hb⟩

end

/-- Settles O25: a block phase is a number of whole blocks, a byte phase a number of bytes, each within its window. -/
theorem fragmentationBounds : Obligations.FragmentationBounds := by
  refine ⟨fun size bs h => ?_, fun size bs h => ?_, fun p bm rem bs pl hp hr e => ?_⟩
  · exact blocks_of_not_pow2 (Bool.eq_false_iff.2 fun e => h ((pow2_iff bs).1 e)) size
  · rw [blocks_of_pow2 ((pow2_iff bs).2 h)]
    obtain ⟨k, hk⟩ := h
    exact ⟨Nat.div_mul_le_self _ _, (Nat.div_lt_iff_lt_mul (hk ▸ Nat.two_pow_pos k)).1 (Nat.lt_succ_self _)⟩
  · obtain ⟨-, hb, hw, hk⟩ := Params.ok_windows hp
    subst e
    refine ⟨one_le_phasePlan_len hp hr, phasePlan_len_le .., ?_⟩
    by_cases h : bm = 1 ∧ 1 ≤ blocks rem bs
    · have hc : (BitVec.ofNat 9 (min (blocks rem bs) p.windowBlocks)).toNat = min (blocks rem bs) p.windowBlocks := by
        rw [BitVec.toNat_ofNat]
        exact Nat.mod_eq_of_lt (by omega)
      rw [phasePlan_block h]
      exact ⟨⟨fun _ => ⟨h.1, Nat.one_le_iff_ne_zero.1 h.2⟩, fun _ => rfl⟩,
        fun _ => ⟨by rw [hc], rfl, by rw [hc]; omega, hc⟩, fun e => nomatch e⟩
    · rw [phasePlan_byte h]
      exact ⟨⟨fun e => (nomatch e), fun e => absurd ⟨e.1, Nat.one_le_iff_ne_zero.2 e.2⟩ h⟩, fun e => (nomatch e),
        fun _ => ⟨rfl, rfl, BitVec.toNat_ofNat _ _⟩⟩

section
variable {p : Params} {bm : Bit} {bs : Word}

theorem phaseList_cons {fuel : Nat} {rem : Word} (h : rem ≠ 0) : phaseList p bm bs (fuel + 1) rem =
    phasePlan p bm rem bs :: phaseList p bm bs fuel (rem - BitVec.ofNat 32 (phasePlan p bm rem bs).len) := by
  rw [phaseList, if_neg h]

theorem phaseList_zero (fuel : Nat) : phaseList p bm bs fuel 0 = [] := by
  cases fuel <;> rfl

/-- What is left after a part has been taken off (R252). -/
theorem toNat_sub_taken {rem : Word} {n : Nat} (h : n ≤ rem.toNat) : (rem - BitVec.ofNat 32 n).toNat = rem.toNat - n := by
  have := rem.isLt
  rw [BitVec.toNat_sub, BitVec.toNat_ofNat]
  omega

/-- The phases tile what is left, with as much fuel as there are bytes (R229). -/
theorem phaseList_sum (hp : p.ok = true) (fuel : Nat) (rem : Word) (h : rem.toNat ≤ fuel) :
    ((phaseList p bm bs fuel rem).map Phase.len).sum = rem.toNat := by
  induction fuel generalizing rem with
  | zero =>
    obtain rfl : rem = 0 := BitVec.eq_of_toNat_eq (Nat.le_zero.1 h)
    rfl
  | succ fuel ih =>
    by_cases h0 : rem = 0
    · subst h0
      rfl
    · have h1 := one_le_phasePlan_len (bm := bm) (bs := bs) hp h0
      have h2 := phasePlan_len_le p bm rem bs
      rw [phaseList_cons h0, List.map_cons, List.sum_cons, ih _ (by rw [toNat_sub_taken h2]; omega), toNat_sub_taken h2]
      omega

theorem phaseList_mem (hp : p.ok = true) (fuel : Nat) (rem : Word) :
    ∀ pl ∈ phaseList p bm bs fuel rem, 1 ≤ pl.len ∧ (bm = 0 → pl.mode = .byte) := by
  induction fuel generalizing rem with
  | zero => exact fun _ h => nomatch h
  | succ fuel ih =>
    by_cases h0 : rem = 0
    · subst h0
      exact fun _ h => nomatch h
    · rw [phaseList_cons h0]
      refine List.forall_mem_cons.2 ⟨⟨one_le_phasePlan_len hp h0, fun hb => ?_⟩, ih _⟩
      rw [phasePlan_byte fun h => absurd (hb.symm.trans h.1) (by decide)]

/-- In byte mode a phase takes a window, or what is left (R225). -/
theorem phaseList_byte {fuel : Nat} {rem : Word} (h : rem ≠ 0) :
    (phaseList p 0 bs (fuel + 1) rem).map Phase.len = min rem.toNat p.windowBytes ::
      (phaseList p 0 bs fuel (rem - BitVec.ofNat 32 (min rem.toNat p.windowBytes))).map Phase.len := by
  rw [phaseList_cons h, phasePlan_byte (by simp)]
  rfl

theorem phaseList_byte_window {fuel n : Nat} {rem : Word} (hr : rem.toNat = n + p.windowBytes) (hn : 1 ≤ n) :
    ∃ left : Word, left.toNat = n ∧ (phaseList p 0 bs (fuel + 1) rem).map Phase.len =
      p.windowBytes :: (phaseList p 0 bs fuel left).map Phase.len := by
  have h0 : rem ≠ 0 := fun e => by simp [e] at hr; omega
  refine ⟨rem - BitVec.ofNat 32 p.windowBytes, by rw [toNat_sub_taken (by omega)]; omega, ?_⟩
  rw [phaseList_byte h0, Nat.min_eq_right (by omega)]

theorem phaseList_byte_last {fuel : Nat} {rem : Word} (h : rem ≠ 0) (hr : rem.toNat ≤ p.windowBytes) :
    (phaseList p 0 bs (fuel + 1) rem).map Phase.len = [rem.toNat] := by
  rw [phaseList_byte h, Nat.min_eq_left hr, BitVec.ofNat_toNat, BitVec.setWidth_eq, BitVec.sub_self]
  exact congrArg (fun l => _ :: List.map Phase.len l) (phaseList_zero fuel)

end

/-- Settles O26: the sum by induction on the fuel; the four phases one after another. -/
theorem phasesTile : Obligations.PhasesTile := by
  intro p bm bs size hp
  refine ⟨phaseList_sum hp _ _ le_rfl, phaseList_mem hp _ _, ?_⟩
  rintro rfl hw hs
  obtain ⟨k, hk⟩ : ∃ k, size.toNat = k + 4 := ⟨size.toNat - 4, by omega⟩
  obtain ⟨r1, h1, e1⟩ := phaseList_byte_window (p := p) (bs := bs) (fuel := k + 3) (rem := size)
    (n := 2 * p.windowBytes + 17) (by omega) (by omega)
  obtain ⟨r2, h2, e2⟩ := phaseList_byte_window (p := p) (bs := bs) (fuel := k + 2) (rem := r1) (n := p.windowBytes + 17)
    (by omega) (by omega)
  obtain ⟨r3, h3, e3⟩ := phaseList_byte_window (p := p) (bs := bs) (fuel := k + 1) (rem := r2) (n := 17)
    (by omega) (by omega)
  have h0 : r3 ≠ 0 := fun e => by simp [e] at h3
  rw [hk, e1, e2, e3, phaseList_byte_last h0 (by omega), h3]

/-! ### FIFO words (R66 to R68) -/

theorem wordBytes_append (a b c d : Byte) : wordBytes (a ++ b ++ c ++ d) = [d, c, b, a] := by
  have ha := a.isLt
  have hb := b.isLt
  have hc := c.isLt
  have hd := d.isLt
  simp only [wordBytes, List.cons.injEq, and_true]
  refine ⟨?_, ?_, ?_, ?_⟩
  all_goals
    apply BitVec.eq_of_toNat_eq
    simp only [toNat_field, toNat_append_add]
    omega

theorem packBytes_wordBytes (w : Word) : packBytes (wordBytes w) = w := by
  have := w.isLt
  apply BitVec.eq_of_toNat_eq
  simp only [packBytes, wordBytes, List.getD_cons_zero, List.getD_cons_succ, toNat_append_add, toNat_field]
  omega

/-- Packed bytes come back, followed by a 0 for each that was absent (R68). -/
theorem wordBytes_packBytes {b : List Byte} (h : b.length ≤ 4) :
    wordBytes (packBytes b) = b ++ List.replicate (4 - b.length) 0 := by
  rw [packBytes, wordBytes_append]
  match b, h with
  | [], _ => rfl
  | [_], _ => rfl
  | [_, _], _ => rfl
  | [_, _, _], _ => rfl
  | [_, _, _, _], _ => rfl

theorem Memory.readBytes_add (m : Memory) (a : Word) (k n : Nat) :
    m.readBytes a (k + n) = m.readBytes a k ++ m.readBytes (a + BitVec.ofNat 32 k) n := by
  induction k generalizing a with
  | zero => simp [Memory.readBytes]
  | succ k ih =>
    have : a + 1 + BitVec.ofNat 32 k = a + BitVec.ofNat 32 (k + 1) := by
      rw [BitVec.add_assoc, Nat.add_comm k 1, BitVec.ofNat_add]
      rfl
    rw [Nat.add_right_comm, Memory.readBytes, ih, this]
    rfl

/-- The words of a buffer: its bytes four by four, the absent ones 0 (R68). -/
def Memory.words (m : Memory) (buf : Word) (n : Nat) : List Word :=
  (List.range ((n + 3) / 4)).map fun j => packBytes (m.readBytes (buf + BitVec.ofNat 32 (4 * j)) (min 4 (n - 4 * j)))

theorem Memory.words_zero (m : Memory) (buf : Word) : m.words buf 0 = [] := rfl

theorem Memory.length_words (m : Memory) (buf : Word) (n : Nat) : (m.words buf n).length = (n + 3) / 4 := by
  simp [Memory.words]

/-- A whole word first, where four bytes or more are left. -/
theorem Memory.words_whole (m : Memory) (buf : Word) (n : Nat) :
    m.words buf (n + 4) = packBytes (m.readBytes buf 4) :: m.words (buf + 4) n := by
  rw [Memory.words, show (n + 4 + 3) / 4 = (n + 3) / 4 + 1 by omega, List.range_succ_eq_map, List.map_cons, List.map_map]
  refine congrArg₂ List.cons ?_ (List.map_congr_left fun j _ => ?_)
  · rw [Nat.min_eq_left (by omega)]
    simp
  · have h1 : buf + BitVec.ofNat 32 (4 * (j + 1)) = buf + 4 + BitVec.ofNat 32 (4 * j) := by
      rw [Nat.mul_succ, Nat.add_comm, BitVec.ofNat_add, BitVec.add_assoc]
      rfl
    have h2 : min 4 (n + 4 - 4 * (j + 1)) = min 4 (n - 4 * j) := by omega
    simp only [Function.comp, Nat.succ_eq_add_one, h1, h2]

/-- The last word, where fewer than four bytes are left. -/
theorem Memory.words_last (m : Memory) (buf : Word) {n : Nat} (h0 : 0 < n) (h4 : n < 4) :
    m.words buf n = [packBytes (m.readBytes buf n)] := by
  rw [Memory.words, show (n + 3) / 4 = 1 by omega, List.range_one, List.map_singleton, Nat.min_eq_right (by omega)]
  simp

/-- The next word of a buffer and the words after it (R234, R235). -/
theorem Memory.words_next (m : Memory) (buf : Word) {n : Nat} (h : 0 < n) : m.words buf n =
    packBytes (m.readBytes buf (min 4 n)) :: m.words (buf + BitVec.ofNat 32 (min 4 n)) (n - min 4 n) := by
  by_cases h4 : n < 4
  · rw [Nat.min_eq_right h4.le, Nat.sub_self, Memory.words_zero, m.words_last buf h h4]
  · obtain ⟨k, rfl⟩ := Nat.exists_eq_add_of_le' (Nat.not_lt.1 h4)
    rw [Nat.min_eq_left (Nat.le_add_left 4 k), Nat.add_sub_cancel, m.words_whole]
    rfl

theorem Memory.take_words (m : Memory) (buf : Word) (n : Nat) :
    ((m.words buf n).flatMap wordBytes).take n = m.readBytes buf n := by
  induction n using Nat.strong_induction_on generalizing buf with
  | _ n ih =>
    rcases Nat.eq_zero_or_pos n with rfl | h0
    · rfl
    · have hl : (m.readBytes buf (min 4 n)).length = min 4 n := m.readBytes_length _ _
      rw [m.words_next buf h0, List.flatMap_cons, wordBytes_packBytes (by omega), hl]
      by_cases h4 : n < 4
      · rw [Nat.min_eq_right h4.le] at hl ⊢
        rw [List.append_assoc, List.take_append_of_le_length hl.ge, List.take_of_length_le hl.le]
      · have h4 := Nat.not_lt.1 h4
        rw [Nat.min_eq_left h4] at hl ⊢
        have hi := ih (n - 4) (by omega) (buf + BitVec.ofNat 32 4)
        rw [Nat.sub_self, List.replicate_zero, List.append_nil, List.take_append, hl, hi,
          List.take_of_length_le (hl.le.trans h4), ← m.readBytes_add, Nat.add_sub_cancel' h4]

/-- Settles O27: packing loses nothing but the zeros of the last word, which are cut off again. -/
theorem fifoPackingRoundTrip : Obligations.FifoPackingRoundTrip := by
  refine ⟨packBytes_wordBytes, fun m buf n => ?_⟩
  rw [← List.flatMap_map]
  exact m.take_words buf n

end Sys2Proof.Machine
end

section
/-! The statements on IO functions but for `EN_FN` (O48 to O51, O54). -/

namespace Sys2Proof.Machine

/-! ### Read-modify-write -/

section
variable {β : Type} {s : State} {r : Except Fault (β × State)} {f : Word → Act β} {fn : Fn} {addr : RegAddr}
  {clear set : Byte}

theorem run_rmw52 (hq : s.env.irqSchedule = []) (he : s.env.cmdAnswer.err = 0)
    (k : f s.env.afterCmd.cmdAnswer.err { s with
      env := s.env.afterCmd.afterCmd
      trace := .cmd cmdDirect (enc52 1 fn 0 addr ((respByte s.env.cmdAnswer.resp &&& ~~~clear) ||| set)) ::
        .cmd cmdDirect (enc52 0 fn 0 addr 0) :: s.trace } = r) :
    (rmw52 irqPoint fn addr clear set >>= f) s = r :=
  run_bind ((rmw52_quiet hq fn addr clear set).trans (if_pos he)) k

theorem run_rmw52_failed (hq : s.env.irqSchedule = []) (he : s.env.cmdAnswer.err ≠ 0)
    (k : f s.env.cmdAnswer.err { s with
      env := s.env.afterCmd, trace := .cmd cmdDirect (enc52 0 fn 0 addr 0) :: s.trace } = r) :
    (rmw52 irqPoint fn addr clear set >>= f) s = r :=
  run_bind ((rmw52_quiet hq fn addr clear set).trans (if_neg he)) k

end

/-- A function number as a byte (R91). -/
theorem fn_setWidth (fn : Fn) : fn.setWidth 8 = (0 : BitVec 5) ++ fn := BitVec.setWidth_eq_append (by decide)

/-- A byte as a response word (R93). -/
theorem byte_setWidth (b : Byte) : b.setWidth 32 = (0 : BitVec 24) ++ b := BitVec.setWidth_eq_append (by decide)

/-- The three requests whose steps are one read-modify-write (R285 to R287). -/
theorem exec_rmw {s t : State} {i : Instr} {fn : Fn} {reg : RegAddr} {clear set : Byte} (hg : s.h.globalState = .idle)
    (hi : i = .disFn fn ∧ fn ≠ 0 ∧ reg = 0x2 ∧ clear = (1 : Byte) <<< fn.toNat ∧ set = 0 ∨
      i = .selFn fn ∧ reg = 0xD ∧ clear = 0x0F ∧ set = (0 : BitVec 5) ++ fn ∨
      i = .abortFn fn ∧ reg = 0x6 ∧ clear = 0x07 ∧ set = (0 : BitVec 5) ++ fn)
    (hb : rmwBody reg clear set { s with h := s.h.clearErrors } = .ok ((), t)) : exec i s = .next t := by
  rcases hi with ⟨rfl, h0, rfl, rfl, rfl⟩ | ⟨rfl, rfl, rfl, rfl⟩ | ⟨rfl, rfl, rfl, rfl⟩
  · exact runs_fromIdle hg rfl rfl rfl rfl (run_ite_neg h0 hb)
  · rw [← fn_setWidth] at hb
    exact runs_fromIdle hg rfl rfl rfl rfl hb
  · rw [← fn_setWidth] at hb
    have legal : s.h.globalState ∈ legalStates (.abortFn fn) s := by
      rw [hg, legalStates]
      split <;> simp
    exact (request_runs_cleared (i := .abortFn fn) rfl legal (decide_eq_true hg)).trans
      (finish_ok (run_ite_neg (by simp [hg]) hb))

/-- Settles O50: one read-modify-write with its three ends. -/
theorem functionRegisterUpdates : Obligations.FunctionRegisterUpdates := by
  refine ⟨fun s hg => runs_fromIdle hg rfl rfl rfl rfl (run_ite_pos rfl rfl), ?_⟩
  intro s i fn reg clear set b rd wr hq hg hi hb hrd hwr
  subst hb hrd hwr
  refine ⟨fun he0 he1 => exec_rmw hg hi (run_bind rfl (run_rmw52 hq he0 (run_ite_pos he1 ?_))),
    fun he0 => exec_rmw hg hi (run_bind rfl (run_rmw52_failed hq he0 (run_ite_neg he0 ?_))),
    fun he0 he1 => exec_rmw hg hi (run_bind rfl (run_rmw52 hq he0 (run_ite_neg he1 ?_)))⟩
  · exact run_idleOk (Handle.idle_cleared hg) []
  · exact run_idleError (Handle.idle_cleared hg) _
  · exact run_idleError (Handle.idle_cleared hg) _

/-- Settles O51: in `Active` the error mask is kept and the handle not written. -/
theorem abortWhileActive : Obligations.AbortWhileActive := by
  intro s fn b rd wr hq hg hp hd hb hrd hwr
  have legal : s.h.globalState ∈ legalStates (.abortFn fn) s := by
    rw [hg, legalStates, if_pos (by rw [hp, show ctxIsDma s.h.context = true from hd]; rfl)]
    simp
  have runs : ∀ t, abortActiveBody fn s = .ok ((), t) → exec (.abortFn fn) s = .next t := fun t h =>
    (request_runs_unchanged (i := .abortFn fn) rfl legal (by simp [clearsErrors, hg])).trans
      (finish_ok (run_ite_pos hg h))
  rw [← fn_setWidth] at hwr
  subst hb hrd hwr
  refine ⟨fun he0 => runs _ (run_rmw52 hq he0 ?_), fun he0 => runs _ (run_rmw52_failed hq he0 ?_)⟩
  · rfl
  · rw [show s.env.cmdAnswer = s.env.answerAt 0 from rfl, if_neg he0]
    rfl

/-! ### Function interrupts -/

/-- A function that is enabled already is not counted twice (R280). -/
theorem Handle.enableFn_eq (h : Handle) (fn : Fn) : h.enableFn fn = { h with
    fnIrqMask := h.fnIrqMask ||| fnBit fn
    fnIrqCount := if h.fnIrqMask.getLsbD fn.toNat then h.fnIrqCount else h.fnIrqCount + 1 } := by
  cases hm : h.fnIrqMask.getLsbD fn.toNat with
  | false => rw [Handle.enableFn, hm]; rfl
  | true =>
    have keeps : h.fnIrqMask ||| fnBit fn = h.fnIrqMask := by
      refine BitVec.eq_of_getLsbD_eq fun k hk => ?_
      rw [BitVec.getLsbD_or, fnBit_getLsbD fn hk]
      by_cases he : k = fn.toNat
      · rw [he, hm, Bool.true_or]
      · rw [decide_eq_false he, Bool.or_false]
    rw [Handle.enableFn, hm, keeps]
    rfl

/-- A function that is not enabled is not counted off (R281). -/
theorem Handle.disableFn_eq (h : Handle) (fn : Fn) : h.disableFn fn = { h with
    fnIrqMask := h.fnIrqMask &&& ~~~fnBit fn
    fnIrqCount := if h.fnIrqMask.getLsbD fn.toNat then h.fnIrqCount - 1 else h.fnIrqCount } := by
  cases hm : h.fnIrqMask.getLsbD fn.toNat with
  | true => rw [Handle.disableFn, hm]; rfl
  | false =>
    have keeps : h.fnIrqMask &&& ~~~fnBit fn = h.fnIrqMask := by
      refine BitVec.eq_of_getLsbD_eq fun k hk => ?_
      rw [BitVec.getLsbD_and, BitVec.getLsbD_not, fnBit_getLsbD fn hk]
      by_cases he : k = fn.toNat
      · rw [he, hm, Bool.false_and]
      · simp [hk, he]
    rw [Handle.disableFn, hm, keeps]
    rfl

/-- Settles O48: the card side is written first, and only then the line opened. -/
theorem enFnIrqResult : Obligations.EnFnIrqResult := by
  refine ⟨fun s hg => runs_fromIdle hg rfl rfl rfl rfl (run_ite_pos rfl rfl), ?_⟩
  intro s fn b rd wr hq hg h0 hb hrd hwr
  subst hb hrd hwr
  refine ⟨fun he0 he1 => ?_, fun he0 => ?_, fun he0 he1 => ?_⟩
  all_goals refine runs_fromIdle hg rfl rfl rfl rfl (run_ite_neg h0 (run_bind rfl (run_rd52 hq ?_)))
  · refine run_ite_pos he0 (run_get (run_wr52 (Env.quiet_afterCmd hq) (run_ite_pos he1 (run_bind rfl ?_))))
    refine run_bind (run_via (Env.quiet_afterCmd (Env.quiet_afterCmd hq)) rfl) (run_bind
      (run_via (Env.quiet_afterCmd (Env.quiet_afterCmd hq)) rfl) (run_idleOk ?_ []))
    dsimp only
    rw [Handle.enableFn_eq]
    exact Handle.idle_eq rfl hg
  · exact run_ite_neg he0 (run_idleError (Handle.idle_cleared hg) _)
  · exact run_ite_pos he0 (run_get (run_wr52 (Env.quiet_afterCmd hq) (run_ite_neg he1
      (run_idleError (Handle.idle_cleared hg) _))))

section
variable {β : Type} {s : State} {r : Except Fault (β × State)} {f : Unit → Act β} {fn : Fn}

/-- A function that was not the last is counted off; the line stays open (R281). -/
theorem run_bookDisabled (hq : s.env.irqSchedule = []) (hc : (s.h.disableFn fn).fnIrqCount ≠ 0)
    (k : f () { s with h := s.h.disableFn fn } = r) : (bookDisabled fn >>= f) s = r :=
  run_bind (by rw [bookDisabled_quiet hq, if_neg hc]) k

/-- With the last function the line is closed (R281). -/
theorem run_bookDisabled_last (hq : s.env.irqSchedule = []) (hc : (s.h.disableFn fn).fnIrqCount = 0)
    (k : f () { s with
      h := (s.h.disableFn fn).withIrqMask ((s.h.disableFn fn).irqMask &&& ~~~flSdioit)
      bus := { s.bus with sdioOp := false }
      trace := .busSdioOp false :: .irqDisable flSdioit :: s.trace } = r) : (bookDisabled fn >>= f) s = r :=
  run_bind (by rw [bookDisabled_quiet hq, if_pos hc]) k

end

/-- Settles O49: the card side is written first; the line is closed where the count comes to 0. -/
theorem disFnIrqResult : Obligations.DisFnIrqResult := by
  refine ⟨fun s hg => runs_fromIdle hg rfl rfl rfl rfl (run_ite_pos rfl rfl), ?_⟩
  intro s fn b c rd wr hq hg h0 hb hrd hwr hcount
  have count : ((s.h.clearErrors.withGlobal .active).disableFn fn).fnIrqCount = c := by
    rw [Handle.disableFn_eq, hcount]
    rfl
  have idle : ((s.h.clearErrors.withGlobal .active).disableFn fn).withGlobal .idle = s.h.clearErrors.disableFn fn := by
    rw [Handle.disableFn_eq, Handle.disableFn_eq]
    exact Handle.idle_eq rfl hg
  subst hb hrd hwr
  refine ⟨fun he0 he1 => ?_, fun he0 => ?_, fun he0 he1 => ?_⟩
  all_goals refine runs_fromIdle hg rfl rfl rfl rfl (run_ite_neg h0 (run_bind rfl (run_rd52 hq ?_)))
  · refine run_ite_pos he0 (run_wr52 (Env.quiet_afterCmd hq) (run_ite_pos he1 ?_))
    have hq2 := Env.quiet_afterCmd (Env.quiet_afterCmd hq)
    by_cases hc : c = 0
    · refine run_bookDisabled_last hq2 (count.trans hc) ?_
      simp only [if_pos hc]
      refine run_idleOk ?_ []
      dsimp only
      rw [Handle.disableFn_eq, hcount]
      exact Handle.idle_eq rfl hg
    · refine run_bookDisabled hq2 (count.trans_ne hc) ?_
      simp only [if_neg hc]
      refine run_idleOk ?_ []
      dsimp only
      rw [idle, Handle.disableFn_eq, hcount]
      rfl
  · exact run_ite_neg he0 (run_idleError (Handle.idle_cleared hg) _)
  · exact run_ite_pos he0 (run_wr52 (Env.quiet_afterCmd hq) (run_ite_neg he1
      (run_idleError (Handle.idle_cleared hg) _)))

/-! ### Snapshots (R292, R293) -/

/-- The reads of a snapshot. -/
def readAction (addr : RegAddr) (j : Nat) : PortAction :=
  .cmd cmdDirect (enc52 0 0 0 (addr + BitVec.ofNat 17 j) 0)

theorem readAction_succ (addr : RegAddr) (j : Nat) : readAction addr (j + 1) = readAction (addr + 1) j := by
  rw [readAction, readAction, Nat.add_comm, BitVec.ofNat_add, BitVec.add_assoc]
  rfl

theorem readAction_zero (addr : RegAddr) : readAction addr 0 = .cmd cmdDirect (enc52 0 0 0 addr 0) := by
  rw [readAction, BitVec.add_zero]

/-- The state after `n` reads. -/
def State.afterReads (s : State) (addr : RegAddr) (n : Nat) : State :=
  { s with env := s.env.afterCmds n, trace := ((List.range n).map (readAction addr)).reverse ++ s.trace }

theorem State.afterReads_succ (s : State) (addr : RegAddr) (n : Nat) : s.afterReads addr (n + 1) =
    State.afterReads { s with env := s.env.afterCmd, trace := readAction addr 0 :: s.trace } (addr + 1) n := by
  have : (List.range (n + 1)).map (readAction addr) = readAction addr 0 :: (List.range n).map (readAction (addr + 1)) := by
    rw [List.range_succ_eq_map, List.map_cons, List.map_map]
    exact congrArg _ (List.map_congr_left fun j _ => readAction_succ addr j)
  rw [State.afterReads, State.afterReads, this, List.reverse_cons, List.append_assoc]
  rfl

theorem readRegs_ok {n : Nat} {s : State} (hq : s.env.irqSchedule = []) (addr : RegAddr)
    (h : ∀ j < n, (s.env.answerAt j).err = 0) :
    readRegs n addr s = .ok (.ok ((List.range n).map fun j => respByte (s.env.answerAt j).resp), s.afterReads addr n) := by
  induction n generalizing s addr with
  | zero => rfl
  | succ n ih =>
    refine run_rd52 hq (run_ite_pos (h 0 n.succ_pos) (run_bind
      (ih (Env.quiet_afterCmd hq) (addr + 1) fun j hj => h (j + 1) (Nat.succ_lt_succ hj)) ?_))
    rw [s.afterReads_succ, readAction_zero, List.range_succ_eq_map, List.map_cons, List.map_map]
    rfl

theorem readRegs_error {n k : Nat} {s : State} (hq : s.env.irqSchedule = []) (addr : RegAddr) (hk : k < n)
    (h : ∀ j < k, (s.env.answerAt j).err = 0) (he : (s.env.answerAt k).err ≠ 0) :
    readRegs n addr s = .ok (.error (s.env.answerAt k).err, s.afterReads addr (k + 1)) := by
  induction n generalizing s addr k with
  | zero => exact absurd hk k.not_lt_zero
  | succ n ih =>
    cases k with
    | zero =>
      refine run_rd52 hq (run_ite_neg he ?_)
      rw [s.afterReads_succ, readAction_zero]
      rfl
    | succ k =>
      refine run_rd52 hq (run_ite_pos (h 0 k.succ_pos) (run_bind
        (ih (Env.quiet_afterCmd hq) (addr + 1) (Nat.lt_of_succ_lt_succ hk) (fun j hj => h (j + 1) (Nat.succ_lt_succ hj)) he)
        ?_))
      rw [s.afterReads_succ, readAction_zero]
      rfl

/-- The two requests that read registers (R292, R293). -/
theorem exec_snapshot {s t : State} {i : Instr} {n base : Nat} (hg : s.h.globalState = .idle)
    (hi : i = .getCccr ∧ n = s.params.cccrSnapshotLen ∧ base = 0 ∨
      ∃ fn : Fn, fn ≠ 0 ∧ i = .getFbr fn ∧ n = s.params.fbrSnapshotLen ∧ base = 0x100 * fn.toNat)
    (hb : snapshotBody n (BitVec.ofNat 17 base) { s with h := s.h.clearErrors } = .ok ((), t)) :
    exec i s = .next t := by
  rcases hi with ⟨rfl, rfl, rfl⟩ | ⟨fn, h0, rfl, rfl, rfl⟩
  · exact runs_fromIdle hg rfl rfl rfl rfl hb
  · exact runs_fromIdle hg rfl rfl rfl rfl (run_ite_neg h0 hb)

/-- Settles O54: the reads one after another, up to the first error. -/
theorem snapshotsReadRegisters : Obligations.SnapshotsReadRegisters := by
  refine ⟨fun s hg => runs_fromIdle hg rfl rfl rfl rfl (run_ite_pos rfl rfl), ?_⟩
  intro s i n base rd hq hg hi hrd
  obtain rfl : rd = readAction (BitVec.ofNat 17 base) := funext fun j => by
    rw [hrd, readAction, ← BitVec.ofNat_add]
    rfl
  refine ⟨fun h => exec_snapshot hg hi (run_bind rfl ?_), fun k hk h he => exec_snapshot hg hi (run_bind rfl ?_)⟩
  · refine run_bind (readRegs_ok (s := { s with h := s.h.clearErrors.withGlobal .active }) hq _ h) ?_
    refine (run_idleOk (h := s.h.clearErrors) (Handle.idle_cleared hg) _).trans ?_
    rw [List.map_map]
    simp only [Function.comp_def, byte_setWidth]
    rfl
  · refine run_bind (readRegs_error (s := { s with h := s.h.clearErrors.withGlobal .active }) hq _ hk h he) ?_
    exact run_idleError (Handle.idle_cleared hg) _

end Sys2Proof.Machine
end

section
/-! The statements on `EN_FN` (O52, O53): reads of the ready register that are not ready are passed over, and what ends the
poll is proved once each. -/

namespace Sys2Proof.Machine

/-! ### Time (R352) -/

/-- A tick reading is as much later as the environment says, as long as that fits the word. -/
theorem toNat_elapsed {a t0 : Word} {d : Nat} (h : (a - t0).toNat + d < 2 ^ 32) :
    (a + BitVec.ofNat 32 d - t0).toNat = (a - t0).toNat + d := by
  have e : a + BitVec.ofNat 32 d - t0 = (a - t0) + BitVec.ofNat 32 d := by
    rw [BitVec.sub_eq_add_neg, BitVec.add_assoc, BitVec.add_comm (BitVec.ofNat 32 d), ← BitVec.add_assoc,
      ← BitVec.sub_eq_add_neg]
  rw [e, BitVec.toNat_add, BitVec.toNat_ofNat, Nat.mod_eq_of_lt (a := d) (by omega)]
  exact Nat.mod_eq_of_lt h

theorem tickSum_cons (d : BitVec 31) (ds : List (BitVec 31)) : tickSum (d :: ds) = d.toNat + tickSum ds := rfl

/-! ### The ready poll (R284) -/

/-- The bit of a register in the response word of its read (R108). -/
theorem respByte_getLsbD (r : Word) (fn : Fn) : (respByte r).getLsbD fn.toNat = r.getLsbD fn.toNat := by
  have := fn.isLt
  simp only [respByte, BitVec.getLsbD_extractLsb', Nat.zero_add, Bool.and_eq_right_iff_imp, decide_eq_true_eq]
  omega

/-- The read of the ready register. -/
def readyRead : PortAction := .cmd cmdDirect (enc52 0 0 0 cccrIoReady 0)

section
variable {s : State} {fn : Fn} {t0 : Word} {n : Nat} {a : CmdAnswer} {as : List CmdAnswer}
  {r : Except Fault (Unit × State)}

/-- A ready read that fails ends the poll. -/
theorem readyPoll_error (hq : s.env.irqSchedule = []) (hc : s.env.cmdScript = a :: as) (he : a.err ≠ 0)
    (k : idleError a.err { s with env := { s.env with cmdScript := as }, trace := readyRead :: s.trace } = r) :
    readyPoll fn t0 (n + 1) s = r := by
  refine run_rd52 hq (run_ite_neg ?_ ?_)
  · rwa [Env.cmdAnswer_cons hc]
  · rw [Env.cmdAnswer_cons hc, Env.afterCmd_cons hc]
    exact k

/-- A ready read that finds the function ready ends the poll. -/
theorem readyPoll_ready (hq : s.env.irqSchedule = []) (hc : s.env.cmdScript = a :: as) (he : a.err = 0)
    (hb : a.resp.getLsbD fn.toNat = true)
    (k : idleOk [] { s with env := { s.env with cmdScript := as }, trace := readyRead :: s.trace } = r) :
    readyPoll fn t0 (n + 1) s = r := by
  refine run_rd52 hq (run_ite_pos ?_ (run_ite_pos ?_ ?_))
  · rwa [Env.cmdAnswer_cons hc]
  · rwa [Env.cmdAnswer_cons hc, respByte_getLsbD]
  · rw [Env.afterCmd_cons hc]
    exact k

/-- The state after a read that was not ready and its time check. -/
def State.polled (s : State) (as : List CmdAnswer) (d : BitVec 31) (ds : List (BitVec 31)) : State :=
  { s with
    env := { s.env with cmdScript := as, tickScript := ds, tick := s.env.tick + BitVec.ofNat 32 d.toNat, tickOwed := 0 }
    trace := .tick :: readyRead :: s.trace }

/-- A ready read that does not find the function ready: the time is checked (R284). -/
theorem readyPoll_notReady (hq : s.env.irqSchedule = []) (hc : s.env.cmdScript = a :: as) (he : a.err = 0)
    (hb : a.resp.getLsbD fn.toNat = false) (ho : s.env.tickOwed = 0) {d : BitVec 31} {ds : List (BitVec 31)}
    (hd : s.env.tickScript = d :: ds)
    (k : (if s.params.fnReadyTimeoutMs.toNat ≤ (s.env.tick + BitVec.ofNat 32 d.toNat - t0).toNat then (do
        updH (·.orErrors errInternal)
        updH (·.withGlobal .idle)
        respond stTimeout []) else readyPoll fn t0 n : Act Unit) (s.polled as d ds) = r) :
    readyPoll fn t0 (n + 1) s = r := by
  refine run_rd52 hq (run_ite_pos ?_ (run_ite_neg ?_ ?_))
  · rwa [Env.cmdAnswer_cons hc]
  · rw [Env.cmdAnswer_cons hc, respByte_getLsbD, hb]
    decide
  · rw [Env.afterCmd_cons hc]
    refine run_bind (run_via hq rfl) (run_get ?_)
    have hd' : ({ s.env with cmdScript := as } : Env).tickScript = d :: ds := hd
    rw [Env.nextTick_cons hd' ho, Env.afterTick_cons hd', Env.nextTick_cons hd' ho]
    exact k

/-- What reads that are not ready leave, each with its time check: the elapsed time is the sum of the steps. -/
structure PollPassed (s t : State) (as : List CmdAnswer) (ts : List (BitVec 31)) (t0 : Word) (n e : Nat) : Prop where
  state : t = { s with env := t.env, trace := (List.replicate n [PortAction.tick, readyRead]).flatten ++ s.trace }
  quiet : t.env.irqSchedule = []
  answers : t.env.cmdScript = as
  ticks : t.env.tickScript = ts
  owed : t.env.tickOwed = 0
  elapsed : (t.env.tick - t0).toNat = e

/-- Reads that are not ready are passed over while the time has not run out. -/
theorem readyPoll_passes {polls : List CmdAnswer} {ds ts : List (BitVec 31)} (hq : s.env.irqSchedule = [])
    (hc : s.env.cmdScript = polls ++ as) (hp : ∀ p ∈ polls, p.err = 0 ∧ p.resp.getLsbD fn.toNat = false)
    (ho : s.env.tickOwed = 0) (hd : s.env.tickScript = ds ++ ts) (hl : ds.length = polls.length)
    (ht : (s.env.tick - t0).toNat + tickSum ds < s.params.fnReadyTimeoutMs.toNat ∨ ds = []) :
    ∃ t, readyPoll fn t0 (polls.length + n) s = readyPoll fn t0 n t ∧
      PollPassed s t as ts t0 polls.length ((s.env.tick - t0).toNat + tickSum ds) := by
  induction polls generalizing s ds with
  | nil =>
    obtain rfl : ds = [] := List.length_eq_zero_iff.1 hl
    exact ⟨s, by rw [List.length_nil, Nat.zero_add], rfl, hq, hc, hd, ho, rfl⟩
  | cons p polls ih =>
    obtain ⟨d, ds, rfl⟩ := List.exists_cons_of_length_eq_add_one hl
    obtain ⟨⟨he, hb⟩, hps⟩ := List.forall_mem_cons.1 hp
    have lt := s.params.fnReadyTimeoutMs.isLt
    have ht := ht.resolve_right (List.cons_ne_nil d ds)
    rw [tickSum_cons] at ht ⊢
    have el : (s.env.tick + BitVec.ofNat 32 d.toNat - t0).toNat = (s.env.tick - t0).toNat + d.toNat :=
      toNat_elapsed (by omega)
    obtain ⟨t, e, h1, h2, h3, h4, h5, h6⟩ := ih (s := s.polled (polls ++ as) d (ds ++ ts)) hq rfl hps rfl rfl
      (Nat.succ.inj hl) (.inl (by
        show (s.env.tick + BitVec.ofNat 32 d.toNat - t0).toNat + tickSum ds < s.params.fnReadyTimeoutMs.toNat
        omega))
    refine ⟨t, ?_, ?_, h2, h3, h4, h5, ?_⟩
    · rw [List.length_cons, Nat.add_right_comm]
      exact readyPoll_notReady hq hc he hb ho hd (run_ite_neg (by omega) e)
    · rw [h1, List.length_cons, List.replicate_succ', List.flatten_append, List.append_assoc]
      rfl
    · rw [h6]
      show (s.env.tick + BitVec.ofNat 32 d.toNat - t0).toNat + tickSum ds = _
      omega

end

/-! ### The request -/

section
variable {s t : State} {fn : Fn}

/-- The write of the enable register: the function's bit or-ed into the byte read (R284). -/
def enableWrite (fn : Fn) (r : Word) : PortAction :=
  .cmd cmdDirect (enc52 1 0 0 cccrIoEnable ((respByte r &&& ~~~(0 : Byte)) ||| fnBit fn))

theorem enableWrite_eq (fn : Fn) (r : Word) :
    enableWrite fn r = .cmd 52 (enc52 1 0 0 0x2 (r.extractLsb' 0 8 ||| (1 : Byte) <<< fn.toNat)) := by
  have : respByte r &&& ~~~(0 : Byte) = r.extractLsb' 0 8 := by
    rw [show ~~~(0 : Byte) = BitVec.allOnes 8 from rfl, BitVec.and_allOnes]
    rfl
  rw [enableWrite, this]
  rfl

/-- The state in which the ready poll of `EN_FN` begins: both commands of the enable register answered, the tick read. -/
def State.enabling (s : State) (fn : Fn) (r : Word) (as : List CmdAnswer) (ds : List (BitVec 31)) : State :=
  { s with
    h := s.h.clearErrors.withGlobal .active
    env := { s.env with cmdScript := as, tickScript := ds, tick := s.env.nextTick, tickOwed := 0 }
    trace := .tick :: enableWrite fn r :: .cmd cmdDirect (enc52 0 0 0 cccrIoEnable 0) :: s.trace }

/-- `EN_FN` of a function whose enable register answers comes to the ready poll. -/
theorem exec_enFn_polls (hq : s.env.irqSchedule = []) (hg : s.h.globalState = .idle) (h0 : fn ≠ 0) {a w : CmdAnswer}
    {as : List CmdAnswer} {d : BitVec 31} {ds : List (BitVec 31)} (hc : s.env.cmdScript = a :: w :: as) (ha : a.err = 0)
    (hw : w.err = 0) (hd : s.env.tickScript = d :: ds)
    (hp : readyPoll fn s.env.nextTick s.env.waitBudget (s.enabling fn a.resp as ds) = .ok ((), t)) :
    exec (.enFn fn) s = .next t := by
  have e1 : s.env.afterCmd = { s.env with cmdScript := w :: as } := Env.afterCmd_cons hc
  have a1 : s.env.cmdAnswer = a := Env.cmdAnswer_cons hc
  have e2 : Env.afterCmd { s.env with cmdScript := w :: as } = { s.env with cmdScript := as } := rfl
  have e3 : Env.afterTick { s.env with cmdScript := as } =
      { s.env with cmdScript := as, tickScript := ds, tick := s.env.nextTick, tickOwed := 0 } := Env.afterTick_cons hd
  refine runs_fromIdle hg rfl rfl rfl rfl (run_ite_neg h0 (run_bind rfl (run_rmw52 hq (a1 ▸ ha) ?_)))
  simp only [a1, e1, e2]
  refine run_ite_pos hw (run_bind (run_via hq rfl) (run_get ?_))
  simp only [e3]
  exact hp

theorem exec_enFn_readFails (hq : s.env.irqSchedule = []) (hg : s.h.globalState = .idle) (h0 : fn ≠ 0)
    (he : (s.env.answerAt 0).err ≠ 0) :
    exec (.enFn fn) s = .next (State.answered { s with
      h := { s.h with lastErrorCodes := errmap (s.env.answerAt 0).err }
      env := s.env.afterCmds 1, trace := .cmd 52 0x00000400 :: s.trace } [1]) := by
  refine runs_fromIdle hg rfl rfl rfl rfl (run_ite_neg h0 (run_bind rfl (run_rmw52_failed hq he (run_ite_neg he ?_))))
  exact run_idleError (Handle.idle_cleared hg) _

theorem exec_enFn_writeFails (hq : s.env.irqSchedule = []) (hg : s.h.globalState = .idle) (h0 : fn ≠ 0)
    (he : (s.env.answerAt 0).err = 0) (hw : (s.env.answerAt 1).err ≠ 0) :
    exec (.enFn fn) s = .next (State.answered { s with
      h := { s.h with lastErrorCodes := errmap (s.env.answerAt 1).err }
      env := s.env.afterCmds 2
      trace := enableWrite fn (s.env.answerAt 0).resp :: .cmd 52 0x00000400 :: s.trace } [1]) := by
  refine runs_fromIdle hg rfl rfl rfl rfl (run_ite_neg h0 (run_bind rfl (run_rmw52 hq he (run_ite_neg hw ?_))))
  exact run_idleError (Handle.idle_cleared hg) _

end

theorem elapsed_self (a : Word) : (a - a).toNat = 0 := by rw [BitVec.sub_self]; rfl

/-- `EN_FN` passes over reads that are not ready; the poll goes on in a state that the reads leave. -/
theorem exec_enFn_passes {s : State} {fn : Fn} (hq : s.env.irqSchedule = []) (hg : s.h.globalState = .idle) (h0 : fn ≠ 0)
    {a w : CmdAnswer} {polls as : List CmdAnswer} {d : BitVec 31} {ds ts : List (BitVec 31)}
    (hc : s.env.cmdScript = a :: w :: (polls ++ as)) (ha : a.err = 0) (hw : w.err = 0)
    (hp : ∀ p ∈ polls, p.err = 0 ∧ p.resp.getLsbD fn.toNat = false) (hd : s.env.tickScript = d :: (ds ++ ts))
    (hl : ds.length = polls.length) (ht : tickSum ds < s.params.fnReadyTimeoutMs.toNat ∨ ds = [])
    (hn : polls.length < s.env.waitBudget) :
    ∃ t n, PollPassed (s.enabling fn a.resp (polls ++ as) (ds ++ ts)) t as ts s.env.nextTick polls.length (tickSum ds) ∧
      ∀ u, readyPoll fn s.env.nextTick (n + 1) t = .ok ((), u) → exec (.enFn fn) s = .next u := by
  obtain ⟨n, hn⟩ := Nat.exists_eq_add_of_lt hn
  have start : ((s.enabling fn a.resp (polls ++ as) (ds ++ ts)).env.tick - s.env.nextTick).toNat + tickSum ds = tickSum ds := by
    rw [show (s.enabling fn a.resp _ _).env.tick = s.env.nextTick from rfl, elapsed_self, Nat.zero_add]
  obtain ⟨t, e, h⟩ := readyPoll_passes (s := s.enabling fn a.resp (polls ++ as) (ds ++ ts)) (t0 := s.env.nextTick)
    (n := n + 1) hq rfl hp rfl rfl hl (start.symm ▸ ht)
  refine ⟨t, n, start ▸ h, fun u hu => exec_enFn_polls hq hg h0 hc ha hw hd ?_⟩
  rw [hn, Nat.add_assoc, e]
  exact hu

/-- The end of a poll whose time has run out, the error mask having been cleared first. -/
theorem run_timedOut {s : State} {h : Handle} (hh : s.h.withGlobal .idle = h.clearErrors) (code : Word) :
    (do updH (·.orErrors code)
        updH (·.withGlobal .idle)
        respond stTimeout [] : Act Unit) s =
      .ok ((), State.answered { s with h := { h with lastErrorCodes := code } } [3]) := by
  rw [← Handle.clearErrors_orErrors, ← hh]
  rfl

/-- Settles O52: the reads that are not ready are passed over, and the next one is ready. -/
theorem enFnBecomesReady : Obligations.EnFnBecomesReady := by
  intro s fn a w ok polls rest d ds trest hq hg h0 hc ha hw hp hok hb hd hl ht hn
  obtain ⟨t, n, ⟨hs, hq', hc', hd', -, -⟩, on⟩ := exec_enFn_passes hq hg h0 hc ha hw hp hd hl (.inl ht) hn
  refine ⟨{ t.env with cmdScript := rest }, on _ (readyPoll_ready hq' hc' hok hb ?_), rfl, hd'⟩
  rw [hs, ← enableWrite_eq]
  exact run_idleOk (h := s.h.clearErrors) (Handle.idle_cleared hg) []

/-- Settles O53: a poll ends with a read that fails, or where the time has run out. -/
theorem enFnFails : Obligations.EnFnFails := by
  refine ⟨fun s hg => runs_fromIdle hg rfl rfl rfl rfl (run_ite_pos rfl rfl), fun s fn hq hg h0 =>
    ⟨?_, exec_enFn_readFails hq hg h0, fun he hw => ?_, ?_⟩⟩
  · intro a w polls rest d last ds trest hc ha hw hp hd hl ht hT hlt hn
    obtain ⟨polls, p, rfl⟩ : ∃ init p, polls = init ++ [p] :=
      ⟨_, _, (List.dropLast_append_getLast (fun h => by simp [h] at hl)).symm⟩
    rw [List.length_append, List.length_singleton] at hl hn ⊢
    obtain ⟨hp, hlast⟩ := List.forall_mem_append.1 hp
    obtain ⟨he, hb⟩ := hlast p (List.mem_singleton_self p)
    rw [List.append_assoc] at hc
    obtain ⟨t, n, ⟨hs, hq', hc', hd', ho, hel⟩, on⟩ := exec_enFn_passes hq hg h0 hc ha hw hp hd (Nat.succ.inj hl) ht hn
    refine ⟨{ t.env with
        cmdScript := rest, tickScript := trest, tick := t.env.tick + BitVec.ofNat 32 last.toNat, tickOwed := 0 },
      on _ (readyPoll_notReady hq' hc' he hb ho hd' (run_ite_pos ?_ ?_)), rfl, rfl⟩
    · rw [toNat_elapsed (by omega), hel, hs]
      exact hT
    · rw [hs, ← enableWrite_eq, List.replicate_succ, List.flatten_cons, List.append_assoc]
      exact run_timedOut (h := s.h) (Handle.idle_cleared hg) errInternal
  · rw [← enableWrite_eq]
    exact exec_enFn_writeFails hq hg h0 he hw
  · intro a w bad polls rest d ds trest hc ha hw hp he hd hl ht hn
    obtain ⟨t, n, ⟨hs, hq', hc', hd', -, -⟩, on⟩ := exec_enFn_passes hq hg h0 hc ha hw hp hd hl ht hn
    refine ⟨{ t.env with cmdScript := rest }, on _ (readyPoll_error hq' hc' he ?_), rfl, hd'⟩
    rw [hs, ← enableWrite_eq]
    exact run_idleError (Handle.idle_cleared hg) _

end Sys2Proof.Machine
end

section
/-! The statements on `DEINIT` and `NOTIFY_REMOVAL` (O11, O12), and what the bytes that an engine may still have to write leave
of memory. -/

namespace Sys2Proof.Machine

/-! ### Bytes of a DMA read (R80, R382, U11) -/

/-- What landing up to `n` bytes may leave of memory and of the environment's scripts: nothing changes but for a DMA read in
flight, and then the buffer alone. -/
structure Landed (s : State) (n : Nat) (m : Memory) (ds : List Byte) (k : Nat) : Prop where
  same : ¬(s.h.context.getLsbD 3 = true ∧ s.h.context.getLsbD 0 = true) →
    m = s.mem ∧ ds = s.env.dmaScript ∧ k = s.env.drawn
  elsewhere : ∀ a, (∀ j < n, a ≠ (s.h.pXferBuff + BitVec.ofNat 32 j).toNat) → m.read a = s.mem.read a

theorem Landed.none (s : State) (n : Nat) : Landed s n s.mem s.env.dmaScript s.env.drawn :=
  ⟨fun _ => ⟨rfl, rfl, rfl⟩, fun _ _ => rfl⟩

theorem landDma_landed (n : Nat) (s : State) :
    ∃ m ds k, landDma n s = .ok ((), { s with mem := m, env := { s.env with dmaScript := ds, drawn := k } }) ∧
      Landed s n m ds k := by
  by_cases h : s.h.context.getLsbD 3 = true ∧ s.h.context.getLsbD 0 = true
  · obtain ⟨m, ds, k, e, -, he, -⟩ := landDma_spec n s
    exact ⟨m, ds, k, e, fun hn => absurd h hn, he⟩
  · refine ⟨s.mem, s.env.dmaScript, s.env.drawn, ?_, .none s n⟩
    rw [landDma, upd_apply, if_neg (by rwa [Bool.and_eq_true])]

/-- Dropping a DMA request where no interruption point is due (R161, R171, R343). -/
theorem dropDma_landed (s : State) :
    ∃ m ds k, dropDma noPoint s = .ok ((), { s with
        mem := m
        dma := if s.h.context.getLsbD 3 then none else s.dma
        env := { s.env with dmaScript := ds, drawn := k }
        trace := (if s.h.context.getLsbD 3 then [.dmaTeardown] else []) ++ s.trace }) ∧
      Landed s s.h.unsettled m ds k := by
  cases hd : s.h.context.getLsbD 3 with
  | false =>
    refine ⟨s.mem, s.env.dmaScript, s.env.drawn, ?_, .none s _⟩
    rw [dropDma, if_neg (by rw [show ctxIsDma s.h.context = false from hd]; decide)]
    rfl
  | true =>
    obtain ⟨m, ds, k, e, hl⟩ := landDma_landed s.h.unsettled { s with dma := none, trace := .dmaTeardown :: s.trace }
    exact ⟨m, ds, k, (if_pos hd).trans e, hl.same, hl.elsewhere⟩

section
variable {β : Type} {s : State} {f : Unit → Act β}

theorem run_dropDma (hq : s.env.irqSchedule = []) {m : Memory} {ds : List Byte} {k : Nat} {r : Except Fault (β × State)}
    (e : dropDma noPoint s = .ok ((), { s with
        mem := m
        dma := if s.h.context.getLsbD 3 then none else s.dma
        env := { s.env with dmaScript := ds, drawn := k }
        trace := (if s.h.context.getLsbD 3 then [.dmaTeardown] else []) ++ s.trace }))
    (h : f () { s with
        mem := m
        dma := if s.h.context.getLsbD 3 then none else s.dma
        env := { s.env with dmaScript := ds, drawn := k }
        trace := (if s.h.context.getLsbD 3 then [.dmaTeardown] else []) ++ s.trace } = r) :
    (dropDma irqPoint >>= f) s = r :=
  run_bind ((dropDma_quiet hq).trans e) h

end

/-! ### `DEINIT` -/

/-- Settles O11: the steps of `DEINIT`, of which only dropping the DMA request depends on what was in flight. -/
theorem deinitFromEveryState : Obligations.DeinitFromEveryState := by
  intro s hq
  obtain ⟨m, ds, k, e, hl⟩ := dropDma_landed { s with
    h := s.h.clearErrors.withIrqMask (s.h.irqMask &&& ~~~allSources)
    dpath := { s.dpath with enabled := false }
    trace := .dpathDisable :: .irqDisable allSources :: s.trace }
  obtain ⟨d, n, ed, -, hd⟩ := defaultDiv_fits (Config.freeClock k) { s with
    h := s.h.clearErrors.withIrqMask (s.h.irqMask &&& ~~~allSources)
    mem := m
    dpath := { s.dpath with enabled := false }
    dma := if s.h.context.getLsbD 3 then none else s.dma
    bus := { s.bus with sdioOp := false, powered := false }
    env := { s.env with flags := flagsCleared s.env.flags staticFlags, dmaScript := ds, drawn := k + 1 }
    trace := .flagClear staticFlags :: .busPower false :: .busSdioOp false ::
      ((if s.h.context.getLsbD 3 then [.dmaTeardown] else []) ++ .dpathDisable :: .irqDisable allSources :: s.trace) }
  have legal : s.h.globalState ∈ legalStates .deinit s := by
    rw [legalStates]
    cases s.h.globalState <;> decide
  refine ⟨d, m, ds, n, (request_runs_cleared (i := .deinit) rfl legal rfl).trans (finish_ok ?_), hd,
    fun h => ⟨(hl.same h).1, (hl.same h).2.1⟩, hl.elsewhere⟩
  refine run_bind (run_via hq rfl) (run_bind (run_via hq rfl) ?_)
  refine run_dropDma (by exact hq) e ?_
  refine run_bind (run_via hq rfl) (run_bind (run_via hq rfl) (run_bind (run_via hq rfl) (run_bind rfl ?_)))
  exact run_bind ed rfl

/-! ### `NOTIFY_REMOVAL` -/

/-- The writes of the handle that end `to_card_removed` (R171). -/
theorem run_removed (s : State) (d : Word) :
    (do updH (·.withCfg (Cfg.default d))
        updH (·.withContext ctxNone)
        updH (·.withRemaining 0)
        updH (·.withFnIrq 0 0)
        updH (·.withIdent .powerOff)
        updH (·.withGlobal .cardRemoved) : Act Unit) s = .ok ((), { s with
      h := { s.h with
        globalState := .cardRemoved, context := 0, identState := .powerOff, remainingData := 0
        fnIrqCount := 0, fnIrqMask := 0, cfg := ⟨0, 0, 0, 0, d, 400000⟩ } }) := by
  simp only [bind_apply, updH_apply, Handle.withCfg, Handle.withContext, Handle.withRemaining, Handle.withFnIrq,
    Handle.withIdent, Handle.withGlobal]
  rfl

/-- The steps of `to_card_removed` (R171). -/
theorem toCardRemoved_quiet {s : State} (hq : s.env.irqSchedule = []) :
    ∃ (d : Word) (m : Memory) (bytes : List Byte) (k n : Nat) (e : Env),
      e = { s.env with flags := flagsCleared s.env.flags 0x13A, dmaScript := bytes, drawn := k } ∧
      toCardRemoved s = .ok ((), { s with
        h := { s.h with
          globalState := .cardRemoved, context := 0, identState := .powerOff, remainingData := 0
          fnIrqCount := 0, fnIrqMask := 0, cfg := ⟨0, 0, 0, 0, d, 400000⟩
          irqMask := s.h.irqMask &&& ~~~0x0040013A }
        mem := m
        dpath := { s.dpath with enabled := false }
        dma := if s.h.context.getLsbD 3 then none else s.dma
        bus := { s.bus with width := 0, edge := 0, psave := 0, hwfc := 0, div := d, sdioOp := false }
        env := { e.afterClock with drawn := n }
        trace := .busConfig 0 0 0 0 d :: .clockHz :: .flagClear 0x13A :: .busSdioOp false ::
          ((if s.h.context.getLsbD 3 then [.dmaTeardown] else []) ++
            .dpathDisable :: .irqDisable 0x0040013A :: s.trace) }) ∧
      (e.clock.toNat / 800000 < 2 ^ s.params.divBits →
        d = BitVec.ofNat 32 (e.clock.toNat / 800000) ∧ n = e.afterClock.drawn) ∧
      d.toNat < 2 ^ s.params.divBits ∧ Landed s s.h.unsettled m bytes k := by
  obtain ⟨m, ds, k, e, hl⟩ := dropDma_landed { s with
    h := s.h.withIrqMask (s.h.irqMask &&& ~~~allSources)
    dpath := { s.dpath with enabled := false }
    trace := .dpathDisable :: .irqDisable allSources :: s.trace }
  let env : Env := { s.env with flags := flagsCleared s.env.flags staticFlags, dmaScript := ds, drawn := k }
  have hq' : env.afterClock.irqSchedule = [] := Env.quiet_afterClock hq
  obtain ⟨d, n, ed, hd, hf⟩ := defaultDiv_fits env.clock { s with
    h := s.h.withIrqMask (s.h.irqMask &&& ~~~allSources)
    mem := m
    dpath := { s.dpath with enabled := false }
    dma := if s.h.context.getLsbD 3 then none else s.dma
    bus := { s.bus with sdioOp := false }
    env := env.afterClock
    trace := .clockHz :: .flagClear staticFlags :: .busSdioOp false ::
      ((if s.h.context.getLsbD 3 then [.dmaTeardown] else []) ++ .dpathDisable :: .irqDisable allSources :: s.trace) }
  refine ⟨d, m, ds, k, n, env, rfl, ?_, hd, hf, hl.same, hl.elsewhere⟩
  refine run_bind (run_via hq rfl) (run_bind (run_via hq rfl) ?_)
  refine run_dropDma (by exact hq) e ?_
  refine run_bind (run_via hq rfl) (run_bind (run_via hq rfl) (run_bind (run_via hq rfl) ?_))
  refine run_bind ed ?_
  exact run_bind (run_via hq' rfl) (run_removed _ d)

/-- Settles O12: the steps of `to_card_removed`, then the response. -/
theorem notifyRemovalResult : Obligations.NotifyRemovalResult := by
  intro s hq hg
  obtain ⟨d, m, bytes, k, n, e, he, run, hd, hf, hl⟩ := toCardRemoved_quiet (s := { s with h := s.h.clearErrors }) hq
  have legal : s.h.globalState ∈ legalStates .notifyRemoval s := (mem_timeoutReadable _).2 hg
  exact ⟨d, m, bytes, k, n, e, he, (request_runs_cleared (i := .notifyRemoval) rfl legal rfl).trans
    (finish_ok (run_bind run rfl)), hd, hf, hl.same, hl.elsewhere⟩

end Sys2Proof.Machine
end

section
/-! The statements on identification with a card whose answers are given (O20, O21). -/

namespace Sys2Proof.Machine

/-! ### The power-up wait (R132) -/

/-- The bus clock at the default divider (R165, R166). -/
theorem freqOf_default (k : Word) : freqOf k (BitVec.ofNat 32 (divOf k Config.defaultClockHz)) =
    if k.toNat / 800000 = 0 then k.toNat / 2 else k.toNat / (2 * (k.toNat / 800000)) := by
  have hd : (BitVec.ofNat 32 (divOf k Config.defaultClockHz)).toNat = k.toNat / 800000 := by
    have := k.isLt
    rw [BitVec.toNat_ofNat]
    exact Nat.mod_eq_of_lt (by simp only [divOf, show 2 * Config.defaultClockHz.toNat = 800000 from rfl]; omega)
  rw [freqOf, hd]

/-- A wait that is rounded up is long enough. -/
theorem settleMs_long (cycles : Nat) {f : Nat} (hf : f ≠ 0) : cycles * 1000 ≤ settleMs cycles f * f := by
  have h1 := Nat.div_add_mod' (cycles * 1000 + (f - 1)) f
  have h2 := Nat.mod_lt (cycles * 1000 + (f - 1)) (Nat.pos_of_ne_zero hf)
  rw [settleMs]
  generalize (cycles * 1000 + (f - 1)) / f * f = q at h1 ⊢
  omega

/-- What is known of the default divider `dd` and of the wait of `ms` milliseconds at the kernel clock `k` (R131, R132). -/
structure PoweredUp (p : Params) (k dd : Word) (ms : Nat) : Prop where
  div : k.toNat / 800000 < 2 ^ p.divBits → dd = BitVec.ofNat 32 (k.toNat / 800000)
  fits : dd.toNat < 2 ^ p.divBits
  wait : ∀ f, f = (if k.toNat / 800000 = 0 then k.toNat / 2 else k.toNat / (2 * (k.toNat / 800000))) → f ≠ 0 →
    p.powerupSettleCycles * 1000 ≤ ms * f

section
variable {s : State}

/-- The state after the power-up: the default configuration on the bus and in the handle, the card not identified. -/
def State.poweredUp (s : State) (dd : Word) (ms n : Nat) : State :=
  { s with
    h := { s.h with identState := .powerOff, cfg := Cfg.default dd }
    bus := { s.bus with powered := true, width := 0, edge := 0, psave := 0, hwfc := 0, div := dd }
    env := { s.env with tickOwed := s.env.tickOwed + ms, drawn := n }
    trace := .delayCycles s.params.powerupSettleCycles :: .busPower true :: .busConfig 0 0 0 0 dd :: s.trace }

theorem identPower_quiet (hq : s.env.irqSchedule = []) (k : Word) :
    ∃ dd ms n, PoweredUp s.params k dd ms ∧ identPower k s = .ok ((), s.poweredUp dd ms n) := by
  obtain ⟨dd, n, ed, hd, hf⟩ := defaultDiv_fits k { s with h := s.h.withIdent .powerOff }
  obtain ⟨ms, n2, ew, hw⟩ := settleWait_spec (k := k) (s := { s with
    h := (s.h.withIdent .powerOff).withCfg (Cfg.default dd)
    bus := { s.bus with powered := true, width := 0, edge := 0, psave := 0, hwfc := 0, div := dd }
    env := { s.env with drawn := n }
    trace := .busPower true :: .busConfig 0 0 0 0 dd :: s.trace }) rfl
  refine ⟨dd, ms, n2, ⟨fun h => (hd h).1, hf, fun f he h0 => ?_⟩, ?_⟩
  · rw [(hw f (he.trans (freqOf_default k).symm) h0).1]
    exact settleMs_long _ h0
  · refine run_bind rfl (run_bind ed (run_bind (run_via hq rfl) (run_bind rfl (run_bind (run_via hq rfl) ?_))))
    exact run_bind ew (run_get (run_via hq rfl))

/-! ### The commands -/

/-- A command of the sequence that the card answers without error. -/
theorem run_identCmd {idx : BitVec 6} {arg r : Word} {next : Word → Act Bool} {as : List CmdAnswer}
    {res : Except Fault (Bool × State)} (hq : s.env.irqSchedule = []) (hc : s.env.cmdScript = ⟨0, r⟩ :: as)
    (k : next r { s with env := { s.env with cmdScript := as }, trace := .cmd idx arg :: s.trace } = res) :
    identCmd idx arg next s = res := by
  rw [identCmd_quiet hq, Env.cmdAnswer_cons hc, Env.afterCmd_cons hc]
  exact (if_pos rfl).trans k

/-- The second inquiry and the voltage switch with the answers that `identMiddle` names (R135 to R137). -/
theorem run_identSecond {r : Word} {next : Act Bool} {mid as : List CmdAnswer} {acts : List PortAction}
    {res : Except Fault (Bool × State)} (hq : s.env.irqSchedule = []) (hn : s.noCallbacks)
    (hm : identMiddle s r mid acts) (hc : s.env.cmdScript = mid ++ as)
    (k : next { s with env := { s.env with cmdScript := as }, trace := acts ++ s.trace } = res) :
    identSecond r next s = res := by
  rcases hm with ⟨hr, rfl, rfl⟩ | ⟨hr, r2, h2, rfl, rfl⟩ | ⟨hr, r2, r11, h31, h24, rfl, rfl⟩
  · obtain rfl : as = s.env.cmdScript := hc.symm
    exact run_ite_pos hr k
  · refine run_ite_neg hr (run_get (run_identCmd hq hc ?_))
    exact run_ite_neg (by rwa [Bool.and_eq_true]) k
  · refine run_ite_neg hr (run_get (run_identCmd hq hc ?_))
    refine run_ite_pos (by rw [respReady, resp18Accepted, h31, h24]; rfl) (run_identCmd hq rfl (run_get ?_))
    by_cases hx : s.h.transceiverMode = 1
    · rw [if_pos hx] at k
      exact run_ite_pos hx (run_bind (run_via hq (emit_noCallbacks submitDuring_nil .transceiver hn)) k)
    · rw [if_neg hx] at k
      exact run_ite_neg hx k

/-! ### The relative address (R139, R140) -/

/-- Relative-address requests that meet "illegal command" are each followed by a wait, while one more is left. -/
theorem identRca_passes {ill as : List CmdAnswer} {m : Nat} (hq : s.env.irqSchedule = [])
    (hi : ∀ a ∈ ill, a.err = 3) (hc : s.env.cmdScript = ill ++ as) :
    identRca (ill.length + (m + 1)) s = identRca (m + 1) { s with
      env := { s.env with cmdScript := as, tickOwed := s.env.tickOwed + ill.length }
      trace := addressRetries ill.length ++ s.trace } := by
  induction ill generalizing s with
  | nil =>
    obtain rfl : as = s.env.cmdScript := hc.symm
    rw [List.length_nil, Nat.zero_add]
    rfl
  | cons a ill ih =>
    obtain ⟨ha, hi⟩ := List.forall_mem_cons.1 hi
    have step : ∀ r, identRca (ill.length + (m + 1)) { s with
        env := { s.env with cmdScript := ill ++ as, tickOwed := s.env.tickOwed + 1 }
        trace := .delayMs 1 :: .cmd cmdSendRca 0 :: s.trace } = r →
        identRca (ill.length + (m + 1) + 1) s = r := fun r k => by
      refine run_bind (run_via hq rfl) ?_
      rw [Env.cmdAnswer_cons hc, Env.afterCmd_cons hc]
      refine run_ite_neg (by rw [ha]; decide) (run_ite_neg (not_not.2 ha) (run_ite_neg (by omega) ?_))
      exact run_bind (run_via hq rfl) k
    rw [List.length_cons, Nat.add_right_comm]
    refine (step _ rfl).trans ((ih (by exact hq) hi rfl).trans ?_)
    rw [addressRetries, addressRetries, List.replicate_succ', List.flatten_append, List.append_assoc, Nat.add_assoc,
      Nat.add_comm 1]
    rfl

/-- The relative address comes within the bounded retry, and the card is selected (R139 to R141). -/
theorem identAddress_found {ill as : List CmdAnswer} {r3 r7 : Word} (hq : s.env.irqSchedule = [])
    (hi : ∀ a ∈ ill, a.err = 3) (hl : ill.length < s.params.rcaRetryMax)
    (hc : s.env.cmdScript = ill ++ ⟨0, r3⟩ :: ⟨0, r7⟩ :: as) :
    identAddress s = .ok (true, { s with
      h := s.h.withIdent .selected
      env := { s.env with cmdScript := as, tickOwed := s.env.tickOwed + ill.length }
      trace := .cmd cmdSelect (selectArg (respRca r3)) :: .cmd cmdSendRca 0 :: (addressRetries ill.length ++ s.trace) }) := by
  obtain ⟨m, hm⟩ := Nat.exists_eq_add_of_lt hl
  refine run_bind rfl (run_get ?_)
  dsimp only
  rw [hm, Nat.add_assoc, identRca_passes (s := { s with h := s.h.withIdent .voltageNegotiated }) hq hi hc]
  refine run_bind (run_via hq rfl) (run_ite_pos rfl (run_bind rfl (run_identCmd hq rfl ?_)))
  rfl

/-- With every relative-address request turned away the identification fails (R139, R142). -/
theorem identAddress_exhausted {ill as : List CmdAnswer} (hq : s.env.irqSchedule = []) (hi : ∀ a ∈ ill, a.err = 3)
    (hl : ill.length = s.params.rcaRetryMax) (h1 : 1 ≤ s.params.rcaRetryMax) (hc : s.env.cmdScript = ill ++ as) :
    identAddress s = .ok (false, { s with
      h := { s.h with
        lastErrorCodes := s.h.lastErrorCodes ||| errIllegalCmd, identState := .powerOff, globalState := .cardRemoved }
      env := { s.env with cmdScript := as, tickOwed := s.env.tickOwed + (s.params.rcaRetryMax - 1) }
      trace := .cmd cmdSendRca 0 :: (addressRetries (s.params.rcaRetryMax - 1) ++ s.trace) }) := by
  obtain ⟨ill, a, rfl⟩ : ∃ init a, ill = init ++ [a] :=
    ⟨_, _, (List.dropLast_append_getLast (fun h => by simp [h] at hl; omega)).symm⟩
  rw [List.length_append, List.length_singleton] at hl
  obtain ⟨err, resp⟩ := a
  obtain ⟨passed, last⟩ := List.forall_mem_append.1 hi
  obtain rfl : err = 3 := last _ (List.mem_singleton_self _)
  rw [List.append_assoc] at hc
  refine run_bind rfl (run_get ?_)
  dsimp only
  rw [← hl, Nat.add_sub_cancel, identRca_passes (m := 0) (s := { s with h := s.h.withIdent .voltageNegotiated }) hq passed hc]
  exact run_bind (run_via hq rfl) (run_ite_neg (show (3 : Word) ≠ 0 by decide) (run_ite_neg (not_not.2 rfl)
    (run_ite_pos rfl rfl)))

/-! ### The whole sequence -/

/-- An identification whose first commands are answered without error comes to the relative address (R131 to R138). -/
theorem ident_run {k r0 r5 : Word} {mid as : List CmdAnswer} {acts : List PortAction} (hq : s.env.irqSchedule = [])
    (hn : s.noCallbacks) (hc : s.env.cmdScript = ⟨0, r0⟩ :: ⟨0, r5⟩ :: (mid ++ as)) (hm : identMiddle s r5 mid acts) :
    ∃ dd ms n, PoweredUp s.params k dd ms ∧ ∀ res, identAddress { s.poweredUp dd ms n with
        env := { (s.poweredUp dd ms n).env with cmdScript := as }
        trace := acts ++ .cmd cmdOpCond 0 :: .cmd cmdGoIdle 0 :: (s.poweredUp dd ms n).trace } = res → ident k s = res := by
  obtain ⟨dd, ms, n, hp, e⟩ := identPower_quiet hq k
  refine ⟨dd, ms, n, hp, fun res h => run_bind e (run_identCmd hq hc (run_identCmd hq rfl ?_))⟩
  exact run_identSecond (by exact hq) (by exact hn) (by exact hm) rfl h

end

section
variable {s t : State} {i : Instr} {hw p e : Bit} {w : BitVec 2} {hz k : Word} {ks : List Word} {r0 r5 : Word}
  {mid as : List CmdAnswer} {acts : List PortAction}

/-- The state in which the relative-address requests of a configuration begin. -/
def State.addressing (s : State) (ks : List Word) (as : List CmdAnswer) (acts : List PortAction) (dd : Word) (ms n : Nat) :
    State :=
  { s with
    h := { s.h with lastErrorCodes := 0, identState := .powerOff, cfg := Cfg.default dd }
    bus := { s.bus with powered := true, width := 0, edge := 0, psave := 0, hwfc := 0, div := dd }
    env := { s.env with clockScript := ks, cmdScript := as, tickOwed := s.env.tickOwed + ms, drawn := n }
    trace := acts ++ .cmd cmdOpCond 0 :: .cmd cmdGoIdle 0 :: .delayCycles s.params.powerupSettleCycles ::
      .busPower true :: .busConfig 0 0 0 0 dd :: .clockHz :: s.trace }

/-- What a configuration does with the answer of the identification (R170). -/
def configureFound (hw p e : Bit) (w : BitVec 2) (d hz : Word) (found : Bool) : Act Unit :=
  if found then do
    via irqPoint (portBusConfig w e p hw d)
    updH (·.withCfg ⟨w, e, p, hw, d, hz⟩)
    let err ← wr52 irqPoint 0 cccrBusIf (cardWidth w)
    if err = 0 then idleOk []
    else
      updH (·.orErrors (errmap err))
      toCardRemoved
      respond stError []
  else respond stError []

/-- A configuration whose parameters pass, of a card that answers the first commands without error (R170, R178). -/
theorem exec_configure_addresses (hq : s.env.irqSchedule = []) (hn : s.noCallbacks)
    (hi : i = .setConfig 0 hw p e w hz ∧ (s.h.globalState = .init ∨ s.h.globalState = .idle) ∨
      i = .notifyInsertion 0 hw p e w hz ∧ s.h.globalState = .cardRemoved)
    (h3 : w ≠ 3) (h0 : hz ≠ 0) (hk : k ≠ 0) (hd : k.toNat / (2 * hz.toNat) < 2 ^ s.params.divBits)
    (hks : s.env.clockScript = k :: ks) (hc : s.env.cmdScript = ⟨0, r0⟩ :: ⟨0, r5⟩ :: (mid ++ as))
    (hm : identMiddle s r5 mid acts) :
    ∃ dd ms n, PoweredUp s.params k dd ms ∧ ∀ (found : Bool) (u t : State),
      identAddress (s.addressing ks as acts dd ms n) = .ok (found, u) →
      configureFound hw p e w (BitVec.ofNat 32 (k.toNat / (2 * hz.toNat))) hz found u = .ok ((), t) →
      exec i s = .next t := by
  have hck : s.env.clock = k := Env.clock_cons hks
  obtain ⟨dd, ms, n, hp, on⟩ := ident_run (k := k) (s := State.clocked { s with h := s.h.clearErrors }) (as := as)
    (Env.quiet_afterClock hq) (by simpa [State.clocked, State.noCallbacks] using hn)
    (by simpa [State.clocked] using hc) (acts := acts) (by exact hm)
  refine ⟨dd, ms, n, hp, fun found u t ha hf => exec_configures hi (run_ite_neg (widthOk_iff.not.2 h3) ?_)⟩
  refine withDivider_goes (s := { s with h := s.h.clearErrors }) hq h0 (hck ▸ hk) (by exact hck ▸ hd) ?_
  dsimp only
  rw [hck]
  refine run_bind (on _ ?_) hf
  rw [← ha]
  simp only [State.poweredUp, State.clocked, Env.afterClock_cons hks]
  rfl

end

/-- Settles O20: the address comes within the bounded retry; then the requested configuration and the card's width. -/
theorem configureCompletes : Obligations.ConfigureCompletes := by
  intro s i hw p e w hz k ks r0 r5 r3 r7 r52 mid ill rest acts d b hq hn hi h3 h0 hk hdv hd hb hks hc hm hill hlt
  rw [List.append_assoc] at hc
  obtain ⟨dd, ms, n, ⟨h1, h2, h4⟩, on⟩ := exec_configure_addresses hq hn hi h3 h0 hk hdv hks hc hm
  refine ⟨dd, ms, n, h1, h2, h4, on true _ _ (identAddress_found (by exact hq) hill hlt rfl) ?_⟩
  subst hd hb
  rw [List.append_assoc]
  refine run_ite_pos rfl (run_bind (run_via hq rfl) (run_bind rfl (run_wr52 hq (run_ite_pos rfl ?_))))
  rfl

/-- Settles O21: with all requests turned away the identification fails, and nothing is sent after them. -/
theorem addressRetryIsBounded : Obligations.AddressRetryIsBounded := by
  intro s i hw p e w hz k ks r0 r5 mid ill rest acts hq hn hi h3 h0 hk hdv hks hc hm hill hl h1
  rw [List.append_assoc] at hc
  obtain ⟨dd, ms, n, ⟨hp1, hp2, hp3⟩, on⟩ := exec_configure_addresses hq hn hi h3 h0 hk hdv hks hc hm
  refine ⟨dd, ms, n, hp1, hp2, hp3, on false _ _ (identAddress_exhausted (by exact hq) hill hl h1 rfl) ?_⟩
  rw [List.append_assoc]
  refine run_ite_neg Bool.false_ne_true ?_
  dsimp only [State.addressing]
  rfl

end Sys2Proof.Machine
end

section
/-! The polling transfers up to their pump and after it (O29, O34). -/

namespace Sys2Proof.Machine

/-! ### The operand checks (R224) -/

section
variable {s : State} {bm op : Bit} {fn : Fn} {addr : RegAddr} {buf size tmo : Word}

theorem extOperandsBad_iff {bs : Word} : extOperandsBad bm bs buf size = true ↔
    size = 0 ∨ (bm = 1 ∧ blocks size bs = 0) ∨ 2 ^ 32 < buf.toNat + size.toNat := by
  simp [extOperandsBad, or_assoc]

theorem extOperandsBad_eq_false (h : s.extOk bm buf size) : extOperandsBad bm s.h.blockSize buf size = false := by
  obtain ⟨h0, hb, hw⟩ := h
  rw [← Bool.not_eq_true, extOperandsBad_iff]
  rintro (e | ⟨e, e'⟩ | e)
  · exact h0 e
  · exact hb e e'
  · omega

theorem pollOversize_iff {p : Params} {bs : Word} : pollOversize p bm bs size = true ↔
    p.pollOversizeRefuse = true ∧ (phasePlan p bm size bs).len ≠ size.toNat := by
  simp [pollOversize]

theorem dmaMisaligned_iff : dmaMisaligned buf = true ↔ buf.toNat % 4 ≠ 0 := by
  simp [dmaMisaligned, Config.dmaAlign]

/-! ### What the two polling transfers have in common (R242, R243) -/

/-- A direction of the polling transfers: the register flag of its command, its context, how a word crosses and on which
flags, and what a failing end leaves of the buffer. -/
structure Poller where
  rw : Bit
  ctx : BitVec 4
  word : Word → Nat → Act Unit
  fast : Word → Bool
  slow : Word → Bool
  failed : Nat → Act Unit

def Poller.read (before : Memory) (buf : Word) : Poller :=
  ⟨0, ctxPollRead, pumpInWord, fun f => flagSet f flRxfifohf, fun f => !flagSet f flRxfifoe, unsettleRead before buf⟩

def Poller.write : Poller :=
  ⟨1, ctxPollWrite, pumpOutWord, fun f => flagSet f flTxfifohe, fun f => !flagSet f flTxfifof, fun _ => pure ()⟩

def Poller.loop (k : Poller) : Word → Word → Nat → Word → Nat → Act PumpEnd := pumpLoop k.word k.fast k.slow

def Poller.pump (k : Poller) (buf : Word) (len : Nat) (tmo : Word) : Act PumpEnd := do
  let t0 ← via irqPoint portTick
  let s ← get
  k.loop t0 tmo s.env.waitBudget buf len

def Poller.body (k : Poller) : Bit → Bit → Fn → RegAddr → Word → Word → Word → Act Unit :=
  pollBody k.rw k.ctx k.pump k.failed

/-- The steps after the clean-up. -/
def Poller.ending (k : Poller) (o : PumpEnd) (len : Nat) : Act Unit := do
  if o ≠ .complete then k.failed len
  respond o.status []

/-- The two requests are the two directions. -/
def Poller.of (k : Poller) (i : Instr) (m : Memory) (bm op : Bit) (fn : Fn) (addr : RegAddr) (buf size tmo : Word) : Prop :=
  i = .readExt bm op fn addr buf size tmo ∧ k = .read m buf ∨ i = .writeExt bm op fn addr buf size tmo ∧ k = .write

theorem exec_poll {i : Instr} {k : Poller} (hi : k.of i s.mem bm op fn addr buf size tmo)
    (hg : s.h.globalState = .idle) :
    exec i s = finish (k.body bm op fn addr buf size tmo) { s with h := s.h.clearErrors } := by
  rcases hi with ⟨rfl, rfl⟩ | ⟨rfl, rfl⟩
  · exact request_runs_cleared (i := .readExt bm op fn addr buf size tmo) rfl (List.mem_singleton.2 hg) rfl
  · exact request_runs_cleared (i := .writeExt bm op fn addr buf size tmo) rfl (List.mem_singleton.2 hg) rfl

theorem Poller.exists_of {i : Instr} (m : Memory)
    (hi : i = .readExt bm op fn addr buf size tmo ∨ i = .writeExt bm op fn addr buf size tmo) :
    ∃ k : Poller, k.of i m bm op fn addr buf size tmo :=
  hi.elim (fun h => ⟨_, .inl ⟨h, rfl⟩⟩) fun h => ⟨_, .inr ⟨h, rfl⟩⟩

/-! ### Up to the pump, and the clean-up after it -/

/-- The state in which the command of a polling transfer has been answered. -/
def State.armed (s : State) (k : Poller) (bm op : Bit) (fn : Fn) (addr : RegAddr) (pl : Phase) : State :=
  { s with
    h := (s.h.withGlobal .active).withContext k.ctx
    dpath := ⟨s.h.dataTimeoutCycles, BitVec.ofNat 32 pl.len, BitVec.ofNat 32 pl.bsz, dirOf k.rw, pl.mode, true⟩
    env := s.env.afterCmd
    trace := .cmd 53 (enc53 k.rw fn bm op addr pl.count) :: .dpathEnable ::
      .dpathConfig s.h.dataTimeoutCycles (BitVec.ofNat 32 pl.len) (BitVec.ofNat 32 pl.bsz) (dirOf k.rw) pl.mode ::
        s.trace }

/-- The state after the clean-up (R239). -/
def State.cleanedUp (s : State) : State :=
  { s with
    h := (s.h.withContext ctxNone).withGlobal .idle
    dpath := { s.dpath with enabled := false }
    env := { s.env with flags := flagsCleared s.env.flags staticFlags }
    trace := .dpathDisable :: .flagClear staticFlags :: s.trace }

theorem run_pollCleanUp (hq : s.env.irqSchedule = []) : pollCleanUp s = .ok ((), s.cleanedUp) :=
  run_bind (run_via hq rfl) (run_bind (run_via hq rfl) (run_bind rfl rfl))

section
variable {k : Poller} {pl : Phase} {r : Except Fault (Unit × State)}
  (hx : s.extOk bm buf size) (hpl : pl = phasePlan s.params bm size s.h.blockSize)
  (ho : s.params.pollOversizeRefuse = true → pl.len = size.toNat)
include hx hpl ho

/-- The operands pass the checks (b) to (d) and (f) of R224. -/
theorem pollChecks_pass :
    ¬(extOperandsBad bm s.h.blockSize buf size || pollOversize s.params bm s.h.blockSize size) = true := by
  rw [extOperandsBad_eq_false hx, Bool.false_or, pollOversize_iff, ← hpl]
  exact fun ⟨h, hn⟩ => hn (ho h)

variable (hq : s.env.irqSchedule = [])
include hq

/-- A polling transfer whose command fails. -/
theorem Poller.body_commandFails (he : s.env.cmdAnswer.err ≠ 0)
    (h : (do k.failed pl.len; respond stError [] : Act Unit)
      (State.cleanedUp { s.armed k bm op fn addr pl with
        h := (s.armed k bm op fn addr pl).h.orErrors (errmap s.env.cmdAnswer.err) }) = r) :
    k.body bm op fn addr buf size tmo s = r := by
  subst hpl
  have hq' : (s.armed k bm op fn addr (phasePlan s.params bm size s.h.blockSize)).env.irqSchedule = [] :=
    Env.quiet_afterCmd hq
  refine run_get (run_ite_neg (pollChecks_pass hx rfl ho) ?_)
  refine run_bind rfl (run_bind rfl (run_bind (run_via hq rfl) (run_bind (run_via hq rfl) (run_bind (run_via hq rfl) ?_))))
  exact run_ite_neg he (run_bind rfl (run_bind (run_pollCleanUp (by exact hq')) h))

/-- A polling transfer whose command succeeds comes to its pump. -/
theorem Poller.body_pumps (he : s.env.cmdAnswer.err = 0) : k.body bm op fn addr buf size tmo s =
    (do let o ← k.pump buf pl.len tmo
        pollCleanUp
        k.ending o pl.len : Act Unit) (s.armed k bm op fn addr pl) := by
  subst hpl
  refine run_get (run_ite_neg (pollChecks_pass hx rfl ho) ?_)
  refine run_bind rfl (run_bind rfl (run_bind (run_via hq rfl) (run_bind (run_via hq rfl) (run_bind (run_via hq rfl) ?_))))
  exact run_ite_pos he rfl

end

/-! ### What a failing end leaves of the buffer (R81) -/

theorem unsettleRead_eq (before : Memory) (buf : Word) (n : Nat) (s : State) :
    ∃ bs d, bs.length = n ∧ unsettleRead before buf n s =
      .ok ((), { s with mem := s.mem.writeBytes buf bs, env := { s.env with drawn := d } }) := by
  obtain ⟨r, hr⟩ : ∃ r, r = Env.freeBytes (Config.freeCount s.env.drawn % (n + 1))
    { s.env with drawn := s.env.drawn + 1 } := ⟨_, rfl⟩
  have e : unsettleRead before buf n s = .ok ((), { s with
      mem := s.mem.writeBytes buf (r.1 ++ (before.readBytes buf n).drop (Config.freeCount s.env.drawn % (n + 1)))
      env := r.2 }) := by
    rw [hr]
    rfl
  obtain ⟨hl, d, hd⟩ := Env.freeBytes_spec (Config.freeCount s.env.drawn % (n + 1)) { s.env with drawn := s.env.drawn + 1 }
  have hk := Nat.mod_lt (Config.freeCount s.env.drawn) (show 0 < n + 1 by omega)
  rw [← hr] at hl hd
  rw [hd] at e
  refine ⟨_, d, ?_, e⟩
  rw [List.length_append, hl, List.length_drop, Memory.readBytes_length]
  omega

theorem Poller.failed_eq {i : Instr} {k : Poller} {m : Memory} (hi : k.of i m bm op fn addr buf size tmo) (n : Nat)
    (s : State) :
    ∃ m' d, k.failed n s = .ok ((), { s with mem := m', env := { s.env with drawn := d } }) ∧
      ∀ m0, Stored m0 buf n s.mem → Stored m0 buf n m' := by
  rcases hi with ⟨-, rfl⟩ | ⟨-, rfl⟩
  · obtain ⟨bs, d, hl, e⟩ := unsettleRead_eq m buf n s
    exact ⟨_, d, e, fun m0 h => h.writeBytes (.mono (.refl buf n) hl.le)⟩
  · exact ⟨s.mem, s.env.drawn, rfl, fun _ h => h⟩

end

/-- The handle at the end of a polling transfer: the errors it met, and no context. -/
theorem Handle.polled_eq {h : Handle} (hg : h.globalState = .idle) (c : BitVec 4) (codes : Word) :
    ((((h.clearErrors.withGlobal .active).withContext c).orErrors codes).withContext ctxNone).withGlobal .idle =
      { h with lastErrorCodes := codes, context := 0 } := by
  rw [← hg]
  have e : (0 : Word) ||| codes = codes := BitVec.zero_or
  exact congrArg (fun v => { h with lastErrorCodes := v, context := 0 }) e

/-- Outside a buffer that does not wrap memory is the same. -/
theorem Stored.outside {m0 m : Memory} {buf : Word} {n : Nat} (h : Stored m0 buf n m) (hn : buf.toNat + n ≤ 2 ^ 32) {a : Nat}
    (ha : a < buf.toNat ∨ buf.toNat + n ≤ a) : m.read a = m0.read a := by
  by_contra hc
  obtain ⟨h1, h2⟩ := h.bounds hn hc
  omega

/-- Settles O29: each failing check comes to the same answer. -/
theorem extendedOperandChecks : Obligations.ExtendedOperandChecks := by
  intro s bm op fn addr buf size tmo t hg ht
  subst ht
  refine ⟨fun h => ?_, fun h => ?_, fun hr hl => ?_⟩
  · have bad : extOperandsBad bm s.h.blockSize buf size = true := extOperandsBad_iff.2 h
    refine ⟨?_, ?_, ?_, ?_⟩
    all_goals exact runs_fromIdle hg rfl rfl rfl rfl (run_get (run_ite_pos (by
      rw [show ({ s with h := s.h.clearErrors } : State).h.blockSize = s.h.blockSize from rfl, bad, Bool.true_or]) rfl))
  · have bad : dmaMisaligned buf = true := dmaMisaligned_iff.2 h
    refine ⟨?_, ?_⟩
    all_goals exact runs_fromIdle hg rfl rfl rfl rfl (run_get (run_ite_pos (by rw [bad, Bool.or_true]) rfl))
  · have bad : pollOversize s.params bm s.h.blockSize size = true := pollOversize_iff.2 ⟨hr, hl⟩
    refine ⟨?_, ?_⟩
    all_goals exact runs_fromIdle hg rfl rfl rfl rfl (run_get (run_ite_pos (by
      rw [show ({ s with h := s.h.clearErrors } : State).h.blockSize = s.h.blockSize from rfl,
        show ({ s with h := s.h.clearErrors } : State).params = s.params from rfl, bad, Bool.or_true]) rfl))

/-- Settles O34: no word crosses before the command has succeeded. -/
theorem pollCommandError : Obligations.PollCommandError := by
  intro s bm op fn addr buf size tmo pl hq hg hx hpl ho he
  have codes := fun c => Handle.polled_eq hg c (errmap s.env.cmdAnswer.err)
  have flags : s.env.afterCmd.flags = s.env.flags := Env.afterCmd_flags _
  constructor
  · rw [exec_poll (k := .write) (.inr ⟨rfl, rfl⟩) hg]
    refine finish_ok (Poller.body_commandFails (s := { s with h := s.h.clearErrors }) hx hpl ho hq he ?_)
    rw [← codes ctxPollWrite, ← flags]
    rfl
  · have hi : (Poller.read s.mem buf).of _ s.mem bm op fn addr buf size tmo := .inl ⟨rfl, rfl⟩
    obtain ⟨m, d, e, hm⟩ := Poller.failed_eq hi pl.len (State.cleanedUp
      { State.armed { s with h := s.h.clearErrors } (.read s.mem buf) bm op fn addr pl with
        h := (State.armed { s with h := s.h.clearErrors } (.read s.mem buf) bm op fn addr pl).h.orErrors
          (errmap s.env.cmdAnswer.err) })
    refine ⟨m, d, ?_, fun a ha => (hm s.mem (.refl _ _ _)).outside ?_ ha⟩
    · rw [exec_poll hi hg]
      refine finish_ok (Poller.body_commandFails (s := { s with h := s.h.clearErrors }) hx hpl ho hq he (run_bind e ?_))
      rw [← codes ctxPollRead, ← flags]
      rfl
    · have := phasePlan_len_le s.params bm size s.h.blockSize
      have := hx.2.2
      rw [hpl]
      omega

end Sys2Proof.Machine
end

section
/-! The pump of the polling transfers where no interruption point is due: the states it goes through, and what is the same
in all of them. -/

namespace Sys2Proof.Machine

/-! ### The states a pump goes through (R230 to R241) -/

/-- The state after a tick reading. -/
def State.ticked (s : State) : State := { s with env := s.env.afterTick, trace := .tick :: s.trace }

/-- The flags that a sample gives. -/
def State.sample (s : State) : Word := flagSample s.env.flags s.env.raised s.bus.sdioOp

/-- The state after a sample of the flags. -/
def State.sampled (s : State) : State := { s with env := s.env.afterSample s.bus.sdioOp, trace := .flags :: s.trace }

/-- The state after a word of `n` bytes has crossed at the cursor `p`: out of the FIFO, or into it. -/
def State.wordIn (p : Word) (n : Nat) (s : State) : State :=
  { s with
    mem := s.mem.writeBytes p ((wordBytes s.env.fifoWord).take n)
    env := s.env.afterFifoRead
    trace := .fifoRead :: s.trace }

def State.wordOut (p : Word) (n : Nat) (s : State) : State :=
  { s with
    env := s.env.afterFifoWrite (packBytes (s.mem.readBytes p n))
    trace := .fifoWrite (packBytes (s.mem.readBytes p n)) :: s.trace }

def Poller.crossed (k : Poller) : Word → Nat → State → State := if k.rw = 0 then .wordIn else .wordOut

/-- So many words have crossed: the cursor and the bytes left move with them. -/
inductive Crossed (k : Poller) : Word → Nat → State → Word → Nat → State → Prop
  | refl (p : Word) (l : Nat) (s : State) : Crossed k p l s p l s
  | step {p q : Word} {l m : Nat} {s t : State} (h0 : 0 < l)
      (h : Crossed k (p + BitVec.ofNat 32 (min 4 l)) (l - min 4 l) (k.crossed p (min 4 l) s) q m t) :
      Crossed k p l s q m t

/-- The states of a pump that began at `p` with `l` bytes in `s`. -/
inductive Pumped (k : Poller) (p : Word) (l : Nat) (s : State) : Word → Nat → State → Prop
  | start : Pumped k p l s p l s
  | sampled {q : Word} {m : Nat} {t : State} (h : Pumped k p l s q m t) : Pumped k p l s q m t.sampled
  | ticked {q : Word} {m : Nat} {t : State} (h : Pumped k p l s q m t) : Pumped k p l s q m t.ticked
  | crossed {q : Word} {m : Nat} {t : State} (h : Pumped k p l s q m t) (h0 : 0 < m) :
      Pumped k p l s (q + BitVec.ofNat 32 (min 4 m)) (m - min 4 m) (k.crossed q (min 4 m) t)

section
variable {k : Poller} {p q : Word} {l m : Nat} {s t u : State}

theorem Pumped.moved (h : Pumped k p l s q m t) {q' : Word} {m' : Nat} (c : Crossed k q m t q' m' u) :
    Pumped k p l s q' m' u := by
  induction c with
  | refl => exact h
  | step h0 _ ih => exact ih (h.crossed h0)

/-- What words that cross leave of the environment. -/
structure Env.SameControl (e f : Env) : Prop where
  flags : f.flags = e.flags
  flagScript : f.flagScript = e.flagScript
  tickScript : f.tickScript = e.tickScript
  tick : f.tick = e.tick
  tickOwed : f.tickOwed = e.tickOwed
  irqSchedule : f.irqSchedule = e.irqSchedule

theorem Env.SameControl.trans {e f g : Env} (a : e.SameControl f) (b : f.SameControl g) : e.SameControl g :=
  ⟨b.1.trans a.1, b.2.trans a.2, b.3.trans a.3, b.4.trans a.4, b.5.trans a.5, b.6.trans a.6⟩

theorem Poller.crossed_control (k : Poller) (p : Word) (n : Nat) (s : State) :
    s.env.SameControl (k.crossed p n s).env := by
  unfold Poller.crossed
  split
  · exact ⟨s.env.afterFifoRead_flags, s.env.afterFifoRead_flagScript, s.env.afterFifoRead_tickScript,
      s.env.afterFifoRead_tick, s.env.afterFifoRead_tickOwed, s.env.afterFifoRead_irqSchedule⟩
  · exact ⟨s.env.afterFifoWrite_flags _, s.env.afterFifoWrite_flagScript _, s.env.afterFifoWrite_tickScript _,
      s.env.afterFifoWrite_tick _, s.env.afterFifoWrite_tickOwed _, s.env.afterFifoWrite_irqSchedule _⟩

theorem Crossed.control (h : Crossed k p l s q m t) : s.env.SameControl t.env := by
  induction h with
  | refl => exact ⟨rfl, rfl, rfl, rfl, rfl, rfl⟩
  | step _ _ ih => exact (Poller.crossed_control _ _ _ _).trans ih

/-- What a pump leaves of a state: all but memory, the environment and the trace. -/
structure SamePump (s t : State) : Prop where
  state : t = { s with mem := t.mem, env := t.env, trace := t.trace }
  quiet : t.env.irqSchedule = s.env.irqSchedule
  cmdScript : t.env.cmdScript = s.env.cmdScript

theorem SamePump.ports (h : SamePump s t) : t.dma = s.dma ∧ t.bus = s.bus ∧ t.requests = s.requests := by
  rw [h.state]
  exact ⟨rfl, rfl, rfl⟩

theorem Pumped.same (h : Pumped k p l s q m t) : SamePump s t := by
  induction h with
  | start => exact ⟨rfl, rfl, rfl⟩
  | sampled _ ih =>
    obtain ⟨hs, hq, hc⟩ := ih
    exact ⟨by rw [hs]; rfl, (Env.afterSample_irqSchedule _ _).trans hq, (Env.afterSample_cmdScript _ _).trans hc⟩
  | ticked _ ih =>
    obtain ⟨hs, hq, hc⟩ := ih
    exact ⟨by rw [hs]; rfl, (Env.afterTick_irqSchedule _).trans hq, (Env.afterTick_cmdScript _).trans hc⟩
  | crossed _ _ ih =>
    obtain ⟨hs, hq, hc⟩ := ih
    unfold Poller.crossed
    split
    · exact ⟨by rw [hs]; rfl, (Env.afterFifoRead_irqSchedule _).trans hq, (Env.afterFifoRead_cmdScript _).trans hc⟩
    · exact ⟨by rw [hs]; rfl, (Env.afterFifoWrite_irqSchedule _ _).trans hq, (Env.afterFifoWrite_cmdScript _ _).trans hc⟩

/-- The bytes that are left are bytes of the buffer, and memory has changed there alone. -/
theorem Pumped.stored (h : Pumped k p l s q m t) : Within p l q m ∧ Stored s.mem p l t.mem := by
  induction h with
  | start => exact ⟨.refl _ _, .refl _ _ _⟩
  | sampled _ ih => exact ih
  | ticked _ ih => exact ih
  | crossed _ _ ih =>
    obtain ⟨hw, hs⟩ := ih
    refine ⟨hw.advance (Nat.min_le_right _ _), ?_⟩
    unfold Poller.crossed
    split
    · exact hs.writeBytes (hw.mono (by simp))
    · exact hs

/-! ### How the pieces of a pump run -/

section
variable {i : Instr} {m0 : Memory} {bm op : Bit} {fn : Fn} {addr : RegAddr} {buf size tmo t0 : Word}
  (hk : k.of i m0 bm op fn addr buf size tmo)
include hk

theorem Poller.word_eq (hq : s.env.irqSchedule = []) (p : Word) (n : Nat) :
    k.word p n s = .ok ((), k.crossed p n s) := by
  rcases hk with ⟨-, rfl⟩ | ⟨-, rfl⟩
  · exact run_bind (run_via hq rfl) rfl
  · exact run_get (run_via hq rfl)

theorem Poller.batch (hq : s.env.irqSchedule = []) {n : Nat} (hn : 4 * n ≤ l) (p : Word) :
    ∃ t, pumpBatch k.word n p s = .ok ((), t) ∧ Crossed k p l s (p + BitVec.ofNat 32 (4 * n)) (l - 4 * n) t := by
  induction n generalizing p l s with
  | zero => exact ⟨s, rfl, by simpa using Crossed.refl p l s⟩
  | succ n ih =>
    have h4 : min 4 l = 4 := by omega
    obtain ⟨t, e, c⟩ := ih (l := l - 4) (((k.crossed_control p 4 s).irqSchedule).trans hq) (by omega) (p + 4)
    refine ⟨t, run_bind (k.word_eq hk hq p 4) e, .step (by omega) ?_⟩
    rw [h4]
    have hp : p + 4 + BitVec.ofNat 32 (4 * n) = p + BitVec.ofNat 32 (4 * (n + 1)) := by
      rw [BitVec.add_assoc, Nat.mul_succ, Nat.add_comm, BitVec.ofNat_add]
      rfl
    rwa [hp, show l - 4 - 4 * n = l - 4 * (n + 1) by omega] at c

/-- The bytes left after one iteration (R232 to R235). -/
def movedLeft (fast slow : Bool) (l : Nat) : Nat :=
  if 32 ≤ l ∧ fast = true then l - 32 else if 0 < l ∧ l < 32 ∧ slow = true then l - min 4 l else l

theorem Poller.move (hq : s.env.irqSchedule = []) (fast slow : Bool) (p : Word) (l : Nat) :
    ∃ q t, pumpMove k.word fast slow p l s = .ok ((q, movedLeft fast slow l), t) ∧
      Crossed k p l s q (movedLeft fast slow l) t := by
  by_cases h1 : 32 ≤ l ∧ fast = true
  · obtain ⟨t, e, c⟩ := k.batch hk hq (n := 8) h1.1 p
    rw [movedLeft, if_pos h1]
    exact ⟨_, t, run_ite_pos h1 (run_bind e rfl), c⟩
  · by_cases h2 : 0 < l ∧ l < 32 ∧ slow = true
    · rw [movedLeft, if_neg h1, if_pos h2]
      exact ⟨_, _, run_ite_neg h1 (run_ite_pos h2 (run_bind (k.word_eq hk hq p _) rfl)), .step h2.1 (.refl _ _ _)⟩
    · rw [movedLeft, if_neg h1, if_neg h2]
      exact ⟨p, s, run_ite_neg h1 (run_ite_neg h2 rfl), .refl _ _ _⟩

/-- An iteration that samples no terminal flag: bytes move, and the time is checked. -/
theorem Poller.loop_moves (hq : s.env.irqSchedule = []) (hf : flagSet s.sample terminalFlags = false) (n : Nat) (p : Word)
    (l : Nat) :
    ∃ q t, Crossed k p l s.sampled q (movedLeft (k.fast s.sample) (k.slow s.sample) l) t ∧
      k.loop t0 tmo (n + 1) p l s = (if tmo.toNat ≤ (t.env.nextTick - t0).toNat then (do
        updH (·.orErrors errDataTimeout)
        pure .timeout) else k.loop t0 tmo n q (movedLeft (k.fast s.sample) (k.slow s.sample) l) : Act PumpEnd) t.ticked := by
  have hs : s.sampled.env.irqSchedule = [] := Env.quiet_afterSample hq _
  obtain ⟨q, t, e, c⟩ := k.move hk hs (k.fast s.sample) (k.slow s.sample) p l
  refine ⟨q, t, c, run_bind (run_via hq rfl) (run_ite_neg (Bool.eq_false_iff.1 hf) (run_bind e ?_))⟩
  exact run_bind (run_via (c.control.irqSchedule.trans hs) rfl) rfl

end

theorem Poller.loop_flags {t0 tmo : Word} (hq : s.env.irqSchedule = []) (hf : flagSet s.sample terminalFlags = true)
    (n : Nat) (p : Word) (l : Nat) : k.loop t0 tmo (n + 1) p l s = pumpFlags s.sample l s.sampled :=
  run_bind (run_via hq rfl) (run_ite_pos hf rfl)

theorem Poller.pump_eq (hq : s.env.irqSchedule = []) (buf : Word) (len : Nat) (tmo : Word) :
    k.pump buf len tmo s = k.loop s.env.nextTick tmo s.ticked.env.waitBudget buf len s.ticked :=
  run_bind (run_via hq rfl) (run_get rfl)

end

/-! ### The ends of a pump (R236, R237) -/

/-- The error bits that go with an end, and that nothing is left at the good one. -/
def PumpEnd.Codes : PumpEnd → Word → Nat → Prop
  | .complete, codes, l => codes = 0 ∧ l = 0
  | .error, codes, _ => codes ≠ 0
  | .timeout, codes, _ => codes = 0x20

theorem flagSet_or (f a b : Word) : flagSet f (a ||| b) = (flagSet f a || flagSet f b) := by
  rw [Bool.eq_iff_iff]
  simp only [flagSet, bne_iff_ne, Bool.or_eq_true, BitVec.and_or_distrib_left, ne_eq]
  rw [show (0 : Word) = 0#32 from rfl, BitVec.or_eq_zero_iff, not_and_or]

theorem errorsOfFlags_ne_zero {f : Word} (h : flagSet f errFlags = true) : errorsOfFlags f ≠ 0 := by
  rw [errFlags, flagSet_or, flagSet_or, flagSet_or] at h
  unfold errorsOfFlags
  revert h
  cases flagSet f flDcrcfail <;> cases flagSet f flDtimeout <;> cases flagSet f flTxunderr <;>
    cases flagSet f flRxoverr <;> decide

/-- A pump that ends does so in one of its states, with the bits of its end accumulated. -/
def PumpEnded (k : Poller) (p : Word) (l : Nat) (s : State) (o : PumpEnd) (t : State) : Prop :=
  ∃ q m u codes, Pumped k p l s q m u ∧ t = { u with h := u.h.orErrors codes } ∧ o.Codes codes m

theorem Handle.orErrors_zero (h : Handle) : h.orErrors 0 = h := by
  have e : h.lastErrorCodes ||| 0 = h.lastErrorCodes := BitVec.or_zero
  exact congrArg (fun v => { h with lastErrorCodes := v }) e

section
variable {k : Poller} {p q : Word} {l m : Nat} {s t u : State} {i : Instr} {m0 : Memory} {bm op : Bit} {fn : Fn}
  {addr : RegAddr} {buf size tmo t0 : Word} {o : PumpEnd}

theorem pumpFlags_ends (hu : Pumped k p l s q m u) {f : Word} (h : pumpFlags f m u = .ok (o, t)) :
    PumpEnded k p l s o t := by
  by_cases he : flagSet f errFlags = true
  · rw [pumpFlags, if_pos he] at h
    cases h
    exact ⟨q, m, u, _, hu, rfl, errorsOfFlags_ne_zero he⟩
  · rw [pumpFlags, if_neg he] at h
    by_cases h0 : m = 0
    · rw [if_pos h0] at h
      cases h
      exact ⟨q, m, t, 0, hu, by rw [Handle.orErrors_zero], rfl, h0⟩
    · rw [if_neg h0] at h
      cases h

theorem Poller.loop_ends (hk : k.of i m0 bm op fn addr buf size tmo) (hq : s.env.irqSchedule = []) {n : Nat}
    (hu : Pumped k p l s q m u) (h : k.loop t0 tmo n q m u = .ok (o, t)) : PumpEnded k p l s o t := by
  induction n generalizing q m u with
  | zero => cases h
  | succ n ih =>
    have hq' : u.env.irqSchedule = [] := hu.same.quiet.trans hq
    cases hf : flagSet u.sample terminalFlags with
    | true =>
      rw [k.loop_flags hq' hf] at h
      exact pumpFlags_ends hu.sampled h
    | false =>
      obtain ⟨q', v, c, e⟩ := k.loop_moves hk (t0 := t0) hq' hf n q m
      rw [e] at h
      by_cases ht : tmo.toNat ≤ (v.env.nextTick - t0).toNat
      · rw [if_pos ht] at h
        cases h
        exact ⟨q', _, v.ticked, _, (hu.sampled.moved c).ticked, rfl, rfl⟩
      · rw [if_neg ht] at h
        exact ih (hu.sampled.moved c).ticked h

theorem Poller.pump_ends (hk : k.of i m0 bm op fn addr buf size tmo) (hq : s.env.irqSchedule = [])
    (h : k.pump p l tmo s = .ok (o, t)) : PumpEnded k p l s o t := by
  rw [k.pump_eq hq] at h
  exact k.loop_ends hk hq (Pumped.start.ticked) h

end

end Sys2Proof.Machine
end

section
/-! The ends of the polling transfers, and the bytes that have crossed at the good one (O32, O33). -/

namespace Sys2Proof.Machine

/-! ### After the pump -/

section
variable {k : Poller} {s t u : State} {i : Instr} {bm op : Bit} {fn : Fn} {addr : RegAddr} {buf size tmo : Word}
  {pl : Phase} {o : PumpEnd}

/-- The state in which the pump of a polling transfer begins: the error mask has been cleared (R25). -/
def State.pumping (s : State) (k : Poller) (bm op : Bit) (fn : Fn) (addr : RegAddr) (pl : Phase) : State :=
  State.armed { s with h := s.h.clearErrors } k bm op fn addr pl

/-- The state a polling transfer ends in, from the one its pump or its command ended in: memory and the free values drawn may
differ where the end is a failing one (R81). -/
def State.pollEnd (u : State) (m : Memory) (d : Nat) (st : Word) : State :=
  State.answered { u.cleanedUp with mem := m, env := { u.cleanedUp.env with drawn := d } } [st]

variable (hi : k.of i s.mem bm op fn addr buf size tmo) (hq : s.env.irqSchedule = []) (hg : s.h.globalState = .idle)
  (hx : s.extOk bm buf size) (hpl : pl = phasePlan s.params bm size s.h.blockSize)
  (ho : s.params.pollOversizeRefuse = true → pl.len = size.toNat)
include hi hq hg hx hpl ho

/-- A command that fails. -/
theorem Poller.exec_commandFails (he : s.env.cmdAnswer.err ≠ 0) :
    ∃ m d, exec i s = .next (State.pollEnd { s.pumping k bm op fn addr pl with
        h := (s.pumping k bm op fn addr pl).h.orErrors (errmap s.env.cmdAnswer.err) } m d 1) ∧
      ∀ m0, Stored m0 buf pl.len s.mem → Stored m0 buf pl.len m := by
  obtain ⟨m, d, e, hm⟩ := Poller.failed_eq hi pl.len (State.cleanedUp { s.pumping k bm op fn addr pl with
    h := (s.pumping k bm op fn addr pl).h.orErrors (errmap s.env.cmdAnswer.err) })
  refine ⟨m, d, ?_, hm⟩
  rw [exec_poll hi hg]
  exact finish_ok (Poller.body_commandFails (s := { s with h := s.h.clearErrors }) hx hpl ho hq he (run_bind e rfl))

variable (he : s.env.cmdAnswer.err = 0)
include he

theorem Poller.exec_pumpStops {f : Fault} (hp : k.pump buf pl.len tmo (s.pumping k bm op fn addr pl) = .error f) :
    exec i s = .fault f := by
  rw [exec_poll hi hg]
  refine finish_error ((Poller.body_pumps (s := { s with h := s.h.clearErrors }) hx hpl ho hq he).trans ?_)
  rw [bind_apply, show State.armed _ k bm op fn addr pl = s.pumping k bm op fn addr pl from rfl, hp]

/-- A pump that ends well. -/
theorem Poller.exec_completes (hu : u.env.irqSchedule = [])
    (hp : k.pump buf pl.len tmo (s.pumping k bm op fn addr pl) = .ok (.complete, u)) :
    exec i s = .next (u.cleanedUp.answered [0]) := by
  rw [exec_poll hi hg]
  exact finish_ok ((Poller.body_pumps (s := { s with h := s.h.clearErrors }) hx hpl ho hq he).trans
    (run_bind hp (run_bind (run_pollCleanUp hu) rfl)))

/-- A pump that ends in an error or a timeout. -/
theorem Poller.exec_pumpFails (hc : o ≠ .complete) (hu : u.env.irqSchedule = [])
    (hp : k.pump buf pl.len tmo (s.pumping k bm op fn addr pl) = .ok (o, u)) :
    ∃ m d, exec i s = .next (u.pollEnd m d o.status) ∧
      ∀ m0, Stored m0 buf pl.len u.mem → Stored m0 buf pl.len m := by
  obtain ⟨m, d, e, hm⟩ := Poller.failed_eq hi pl.len u.cleanedUp
  refine ⟨m, d, ?_, hm⟩
  rw [exec_poll hi hg]
  exact finish_ok ((Poller.body_pumps (s := { s with h := s.h.clearErrors }) hx hpl ho hq he).trans
    (run_bind hp (run_bind (run_pollCleanUp hu) (run_ite_pos hc (run_bind e rfl)))))

end

/-- What every end of a polling transfer has in common: a state of its pump, the error bits of the end, and its status. -/
structure PollEnded (k : Poller) (s : State) (buf : Word) (n : Nat) (u : State) (left : Nat) (codes : Word) (t : State) :
    Prop where
  pumped : ∃ q, Pumped k buf n s q left u
  state : ∃ m d st, t = State.pollEnd { u with h := u.h.orErrors codes } m d st ∧ Stored s.mem buf n m ∧
    (st = 0 ∧ codes = 0 ∧ left = 0 ∧ m = u.mem ∨ st = 3 ∧ codes = 0x20 ∨ st = 1 ∧ codes ≠ 0)

theorem errmap_ne_zero {e : Word} (h : e ≠ 0) : errmap e ≠ 0 := by
  unfold errmap
  rw [if_neg h]
  split
  · decide
  · split
    · decide
    · split <;> decide

section
variable {k : Poller} {s t : State} {i : Instr} {bm op : Bit} {fn : Fn} {addr : RegAddr} {buf size tmo : Word}
  {pl : Phase}

theorem Poller.exec_ends (hi : k.of i s.mem bm op fn addr buf size tmo) (hq : s.env.irqSchedule = [])
    (hg : s.h.globalState = .idle) (hx : s.extOk bm buf size) (hpl : pl = phasePlan s.params bm size s.h.blockSize)
    (ho : s.params.pollOversizeRefuse = true → pl.len = size.toNat) (h : exec i s = .next t) :
    ∃ u left codes, PollEnded k (s.pumping k bm op fn addr pl) buf pl.len u left codes t := by
  by_cases he : s.env.cmdAnswer.err = 0
  case neg =>
    obtain ⟨m, d, e, hm⟩ := k.exec_commandFails hi hq hg hx hpl ho he
    obtain rfl : _ = t := Host.Outcome.next.inj (e.symm.trans h)
    exact ⟨_, _, _, ⟨buf, .start⟩, m, d, 1, rfl, hm _ (.refl _ _ _), .inr (.inr ⟨rfl, errmap_ne_zero he⟩)⟩
  have hq' : (s.pumping k bm op fn addr pl).env.irqSchedule = [] := Env.quiet_afterCmd hq
  cases hp : k.pump buf pl.len tmo (s.pumping k bm op fn addr pl) with
  | error f => exact nomatch (k.exec_pumpStops hi hq hg hx hpl ho he hp).symm.trans h
  | ok r =>
    obtain ⟨o, v⟩ := r
    obtain ⟨q, m, u, codes, hu, rfl, hcodes⟩ := k.pump_ends hi hq' hp
    have hqu := hu.same.quiet.trans hq'
    refine ⟨u, m, codes, ⟨q, hu⟩, ?_⟩
    by_cases hc : o = .complete
    · subst hc
      obtain rfl : _ = t := Host.Outcome.next.inj ((k.exec_completes hi hq hg hx hpl ho he (by exact hqu) hp).symm.trans h)
      exact ⟨_, _, _, rfl, hu.stored.2, .inl ⟨rfl, hcodes.1, hcodes.2, rfl⟩⟩
    · obtain ⟨m', d, e, hm⟩ := k.exec_pumpFails hi hq hg hx hpl ho he hc (by exact hqu) hp
      obtain rfl : _ = t := Host.Outcome.next.inj (e.symm.trans h)
      refine ⟨m', d, _, rfl, hm _ hu.stored.2, .inr ?_⟩
      cases o with
      | complete => exact absurd rfl hc
      | error => exact .inr ⟨rfl, hcodes⟩
      | timeout => exact .inl ⟨rfl, hcodes⟩

/-- The handle at every end of a polling transfer. -/
theorem Pumped.end_handle {q : Word} {m n : Nat} {u : State}
    (hu : Pumped k buf n (s.pumping k bm op fn addr pl) q m u) (hg : s.h.globalState = .idle) (codes : Word) :
    ((u.h.orErrors codes).withContext ctxNone).withGlobal .idle =
      { s.h with lastErrorCodes := codes, context := 0 } := by
  rw [hu.same.state]
  exact Handle.polled_eq hg k.ctx codes

end

theorem staticFlags_eq : staticFlags = 0x13A := rfl

theorem flagsCleared_and_self (held : Word) : flagsCleared held 0x13A &&& 0x13A = 0 := by
  rw [flagsCleared, show (0x13A : Word) &&& stickyFlags = 0x13A from rfl, BitVec.and_assoc,
    show ~~~(0x13A : Word) &&& 0x13A = 0 from rfl]
  exact BitVec.and_zero

/-- Settles O33: whatever the end, the clean-up comes before it. -/
theorem pollEndsIdle : Obligations.PollEndsIdle := by
  intro s t i bm op fn addr buf size tmo hq hg hx ho hi he
  obtain ⟨k, hk⟩ := Poller.exists_of s.mem hi
  obtain ⟨u, left, codes, ⟨q, hu⟩, m, d, st, rfl, hm, hend⟩ := k.exec_ends hk hq hg hx rfl ho he
  refine ⟨⟨codes, hu.end_handle hg codes, ?_⟩, rfl, flagsCleared_and_self _, ?_, ?_, ?_, fun a ha => ?_⟩
  · rcases hend with ⟨rfl, hc, -⟩ | ⟨rfl, hc⟩ | ⟨rfl, hc⟩
    · exact .inl ⟨rfl, hc⟩
    · exact .inr (.inl ⟨rfl, hc⟩)
    · exact .inr (.inr ⟨rfl, hc⟩)
  · exact hu.same.ports.1
  · exact hu.same.ports.2.1
  · exact hu.same.ports.2.2
  · have hl := phasePlan_len_le s.params bm size s.h.blockSize
    have hw := hx.2.2
    exact hm.outside (by omega) (by omega)

/-! ### The bytes that cross -/

theorem Memory.writeBytes_append (m : Memory) (a : Word) (xs ys : List Byte) :
    m.writeBytes a (xs ++ ys) = (m.writeBytes a xs).writeBytes (a + BitVec.ofNat 32 xs.length) ys := by
  induction xs generalizing m a with
  | nil => simp [Memory.writeBytes]
  | cons x xs ih =>
    have : a + 1 + BitVec.ofNat 32 xs.length = a + BitVec.ofNat 32 (xs.length + 1) := by
      rw [BitVec.add_assoc, Nat.add_comm xs.length 1, BitVec.ofNat_add]
      rfl
    rw [List.cons_append, Memory.writeBytes, ih, this]
    rfl

theorem wordBytes_length (w : Word) : (wordBytes w).length = 4 := rfl

/-- The bytes of the next word, and those of the words after it (R67). -/
theorem take_flatMap_wordBytes (w : Word) (ws : List Word) (m : Nat) :
    ((w :: ws).flatMap wordBytes).take m =
      (wordBytes w).take (min 4 m) ++ (ws.flatMap wordBytes).take (m - min 4 m) := by
  rw [List.flatMap_cons, List.take_append, wordBytes_length]
  rcases Nat.le_total 4 m with h | h
  · rw [Nat.min_eq_left h, List.take_of_length_le (by rwa [wordBytes_length]), List.take_of_length_le (wordBytes_length w).le]
  · rw [Nat.min_eq_right h, Nat.sub_self, Nat.sub_eq_zero_of_le h]

section
variable {k : Poller} {p q : Word} {l m : Nat} {s t : State}

theorem Poller.crossed_in (hk : k.rw = 0) : k.crossed = State.wordIn := if_pos hk
theorem Poller.crossed_out (hk : k.rw ≠ 0) : k.crossed = State.wordOut := if_neg hk

/-- A read: what has been stored, and the words still to be read, make up the buffer. -/
theorem Pumped.read_words (hk : k.rw = 0) (h : Pumped k p l s q m t) {words wrest : List Word}
    (hf : s.env.fifoRx = words ++ wrest) (hl : words.length = (l + 3) / 4) :
    ∃ ws, t.env.fifoRx = ws ++ wrest ∧ ws.length = (m + 3) / 4 ∧ t.env.fifoTx = s.env.fifoTx ∧
      t.mem.writeBytes q ((ws.flatMap wordBytes).take m) = s.mem.writeBytes p ((words.flatMap wordBytes).take l) := by
  induction h with
  | start => exact ⟨words, hf, hl, rfl, rfl⟩
  | sampled _ ih =>
    obtain ⟨ws, h1, h2, h3, h4⟩ := ih
    exact ⟨ws, (Env.afterSample_fifoRx _ _).trans h1, h2, (Env.afterSample_fifoTx _ _).trans h3, h4⟩
  | ticked _ ih =>
    obtain ⟨ws, h1, h2, h3, h4⟩ := ih
    exact ⟨ws, (Env.afterTick_fifoRx _).trans h1, h2, (Env.afterTick_fifoTx _).trans h3, h4⟩
  | @crossed q m t _ h0 ih =>
    obtain ⟨ws, h1, h2, h3, h4⟩ := ih
    obtain ⟨w, ws, rfl⟩ := List.exists_cons_of_length_eq_add_one (h2.trans (show (m + 3) / 4 = (m - 1) / 4 + 1 by omega))
    rw [k.crossed_in hk]
    refine ⟨ws, (Env.afterFifoRead_fifoRx _).trans (congrArg List.tail h1), ?_, (Env.afterFifoRead_fifoTx _).trans h3, ?_⟩
    · rw [List.length_cons] at h2
      omega
    · have hn : ((wordBytes w).take (min 4 m)).length = min 4 m := by simp [wordBytes_length]
      rw [← h4, take_flatMap_wordBytes, Memory.writeBytes_append, hn, State.wordIn,
        Env.fifoWord_cons (ws := ws ++ wrest) h1]

/-- The words of a list that a full FIFO has not lost (R362). -/
def keptWords (ws : List Word) (lost : List Bool) : List Word := ((ws.zip lost).filter fun p => !p.2).map Prod.fst

theorem keptWords_cons (w : Word) (ws : List Word) (b : Bool) (bs : List Bool) :
    keptWords (w :: ws) (b :: bs) = (if b then [] else [w]) ++ keptWords ws bs := by
  cases b <;> rfl

theorem keptWords_none {ws : List Word} {lost : List Bool} (hl : lost.length = ws.length) (h : ∀ b ∈ lost, b = false) :
    keptWords ws lost = ws := by
  induction lost generalizing ws with
  | nil => rw [List.length_eq_zero_iff.1 hl.symm]; rfl
  | cons b bs ih =>
    obtain ⟨w, ws, rfl⟩ := List.exists_cons_of_length_eq_add_one hl.symm
    obtain ⟨rfl, hbs⟩ := List.forall_mem_cons.1 h
    rw [keptWords_cons, ih (Nat.succ.inj hl) hbs]
    rfl

/-- A write: what the FIFO holds, and what is to be pushed, make up the buffer but for the words lost. -/
theorem Pumped.write_words (hk : k.rw ≠ 0) (h : Pumped k p l s q m t) {lost full : List Bool}
    (hf : s.env.txFullScript = lost ++ full) (hl : lost.length = (l + 3) / 4) :
    t.mem = s.mem ∧ t.env.fifoRx = s.env.fifoRx ∧ ∃ bs, t.env.txFullScript = bs ++ full ∧ bs.length = (m + 3) / 4 ∧
      t.env.fifoTx ++ keptWords (s.mem.words q m) bs = s.env.fifoTx ++ keptWords (s.mem.words p l) lost := by
  induction h with
  | start => exact ⟨rfl, rfl, lost, hf, hl, rfl⟩
  | sampled _ ih =>
    obtain ⟨hm, hr, bs, h1, h2, h3⟩ := ih
    refine ⟨hm, (Env.afterSample_fifoRx _ _).trans hr, bs, (Env.afterSample_txFullScript _ _).trans h1, h2, ?_⟩
    rw [← h3]
    exact congrArg (· ++ _) (Env.afterSample_fifoTx _ _)
  | ticked _ ih =>
    obtain ⟨hm, hr, bs, h1, h2, h3⟩ := ih
    refine ⟨hm, (Env.afterTick_fifoRx _).trans hr, bs, (Env.afterTick_txFullScript _).trans h1, h2, ?_⟩
    rw [← h3]
    exact congrArg (· ++ _) (Env.afterTick_fifoTx _)
  | @crossed q m t _ h0 ih =>
    obtain ⟨hm, hr, bs, h1, h2, h3⟩ := ih
    obtain ⟨b, bs, rfl⟩ := List.exists_cons_of_length_eq_add_one (h2.trans (show (m + 3) / 4 = (m - 1) / 4 + 1 by omega))
    rw [k.crossed_out hk]
    refine ⟨hm, (Env.afterFifoWrite_fifoRx _ _).trans hr, bs,
      (Env.afterFifoWrite_txFullScript _ _).trans (congrArg List.tail h1), ?_, ?_⟩
    · rw [List.length_cons] at h2
      omega
    · have full : t.env.fifoFull = b := by rw [Env.fifoFull, h1]; rfl
      rw [← h3, s.mem.words_next q h0, keptWords_cons, ← List.append_assoc]
      refine congrArg (· ++ _) ((Env.afterFifoWrite_fifoTx _ _).trans ?_)
      rw [Env.pushed, full, hm]
      cases b
      · rfl
      · exact (List.append_nil _).symm

end

/-- Settles O32: at the good end no byte is left to cross. -/
theorem pollOkMeansEveryByteMoved : Obligations.PollOkMeansEveryByteMoved := by
  intro s t bm op fn addr buf size tmo pl hq hg hx hpl hlen hresp
  have done : ∀ {k : Poller} {i : Instr}, k.of i s.mem bm op fn addr buf size tmo → exec i s = .next t →
      ∃ q u, Pumped k buf size.toNat (s.pumping k bm op fn addr pl) q 0 u ∧ t.mem = u.mem ∧
        t.env.fifoRx = u.env.fifoRx ∧ t.env.fifoTx = u.env.fifoTx ∧ t.env.txFullScript = u.env.txFullScript := by
    intro k i hk he
    obtain ⟨u, left, codes, ⟨q, hu⟩, m, d, st, rfl, hm, hend⟩ := k.exec_ends hk hq hg hx hpl (fun _ => hlen) he
    have hst : st = 0 := List.singleton_inj.1 hresp
    rw [hlen] at hu
    rcases hend with ⟨-, -, rfl, rfl⟩ | ⟨h, -⟩ | ⟨h, -⟩
    · exact ⟨q, u, hu, rfl, rfl, rfl, rfl⟩
    · exact absurd (hst.symm.trans h) (by decide)
    · exact absurd (hst.symm.trans h) (by decide)
  refine ⟨fun words wrest hf hl he => ?_, fun lost full words hf hl hw he => ?_⟩
  · obtain ⟨q, u, hu, hm, hrx, -, -⟩ := done (k := .read s.mem buf) (.inl ⟨rfl, rfl⟩) he
    obtain ⟨ws, h1, h2, -, h4⟩ := hu.read_words rfl ((Env.afterCmd_fifoRx _).trans hf) hl
    obtain rfl : ws = [] := List.length_eq_zero_iff.1 h2
    exact ⟨hm.trans h4, hrx.trans h1⟩
  · obtain ⟨q, u, hu, hm, -, htx, hfull⟩ := done (k := .write) (.inr ⟨rfl, rfl⟩) he
    obtain ⟨hum, -, bs, h1, h2, h3⟩ := hu.write_words (by decide) ((Env.afterCmd_txFullScript _).trans hf) hl
    obtain rfl : bs = [] := List.length_eq_zero_iff.1 h2
    have hw : words = s.mem.words buf size.toNat := hw
    have kept : t.env.fifoTx = s.env.fifoTx ++ keptWords words lost := by
      rw [htx, hw]
      refine ((List.append_nil _).symm.trans h3).trans ?_
      exact congrArg (· ++ _) (Env.afterCmd_fifoTx _)
    refine ⟨hm.trans hum, hfull.trans h1, kept, fun hb => ?_⟩
    rw [kept, keptWords_none (by rw [hl, hw, Memory.length_words]) hb]

end Sys2Proof.Machine
end

section
/-! The polling transfers with a data path whose samples are given (O30, O31, O35, O36). -/

namespace Sys2Proof.Machine

/-! ### Samples (R40, R363) -/

section
variable {held f m : Word} {b : Bool}

/-- A sample without the sticky flags of the mask `m` leaves these as they are held. -/
theorem flagSample_and (hm : stickyFlags &&& m = m) (hf : f &&& m = 0) : flagSample held f b &&& m = held &&& m := by
  have hr : (if b then f else f &&& ~~~flSdioit) &&& m = 0 := by
    cases b
    · rw [if_neg Bool.false_ne_true, BitVec.and_assoc, BitVec.and_comm _ m, ← BitVec.and_assoc, hf]
      exact BitVec.zero_and
    · exact hf
  rw [flagSample, BitVec.and_comm, BitVec.and_or_distrib_left, BitVec.and_comm m, BitVec.and_comm m, hr, BitVec.and_assoc, hm]
  exact BitVec.or_zero

theorem terminalFlags_eq : terminalFlags = 0x13A := rfl
theorem errFlags_eq : errFlags = 0x3A := rfl

theorem flagSet_eq_false : flagSet f m = false ↔ f &&& m = 0 := by simp [flagSet]
theorem flagSet_eq_true : flagSet f m = true ↔ f &&& m ≠ 0 := by simp [flagSet]

/-- A level flag of a sample is what the data path raises. -/
theorem flagSample_level {j : Nat} (hs : stickyFlags.getLsbD j = false) :
    (flagSample held f b).getLsbD j = f.getLsbD j := by
  have hd : flSdioit.getLsbD j = false := by
    have : stickyFlags = terminalFlags ||| flSdioit := rfl
    rw [this, BitVec.getLsbD_or, Bool.or_eq_false_iff] at hs
    exact hs.2
  have hr : (if b then f else f &&& ~~~flSdioit).getLsbD j = f.getLsbD j := by
    cases b
    · rw [if_neg Bool.false_ne_true, BitVec.getLsbD_and, BitVec.getLsbD_not, hd, Bool.not_false, Bool.and_true,
        Bool.and_eq_left_iff_imp]
      exact fun h => decide_eq_true (BitVec.lt_of_getLsbD h)
    · rfl
  rw [flagSample, BitVec.getLsbD_or, BitVec.getLsbD_and, hs, Bool.and_false, Bool.false_or, hr]

end

/-! ### Iterations that sample no terminal flag -/

/-- The FIFO is ready, whatever the flag word holds: both flags that let words cross say so. -/
def Poller.Ready (k : Poller) (f : Word) : Prop :=
  ∀ held b, k.fast (flagSample held f b) = true ∧ k.slow (flagSample held f b) = true

/-- What iterations with the samples `fs` leave, each with its time check: the elapsed time is the sum of the steps. -/
structure PumpPassed (k : Poller) (fs : List Word) (p : Word) (l : Nat) (s : State) (q : Word) (m : Nat) (t : State)
    (frest : List Word) (ts : List (BitVec 31)) (t0 : Word) (e : Nat) : Prop where
  pumped : Pumped k p l s q m t
  samples : t.env.flagScript = frest
  ticks : t.env.tickScript = ts
  owed : t.env.tickOwed = 0
  elapsed : (t.env.tick - t0).toNat = e
  flags : ∀ w, stickyFlags &&& w = w → (∀ f ∈ fs, f &&& w = 0) → t.env.flags &&& w = s.env.flags &&& w
  left : (∀ f ∈ fs, k.Ready f) → m = (movedLeft true true)^[fs.length] l

section
variable {k : Poller} {s t : State} {p q : Word} {l m n : Nat} {i : Instr} {m0 : Memory} {bm op : Bit} {fn : Fn} {addr : RegAddr}
  {buf size tmo t0 f : Word} {frest : List Word} {ts : List (BitVec 31)} {d : BitVec 31}

/-- The state after an iteration: its words, and the time check. -/
theorem Poller.loop_step (hk : k.of i m0 bm op fn addr buf size tmo) (hq : s.env.irqSchedule = [])
    (h0 : s.env.flags &&& 0x13A = 0) (hf : s.env.flagScript = f :: frest) (hf0 : f &&& 0x13A = 0)
    (ho : s.env.tickOwed = 0) (hd : s.env.tickScript = d :: ts) (n : Nat) (p : Word) (l : Nat) :
    ∃ q m t, PumpPassed k [f] p l s q m t frest ts s.env.tick d.toNat ∧ t.env.tick = s.env.tick + BitVec.ofNat 32 d.toNat ∧
      k.loop t0 tmo (n + 1) p l s = (if tmo.toNat ≤ (t.env.tick - t0).toNat then (do
        updH (·.orErrors errDataTimeout)
        pure .timeout) else k.loop t0 tmo n q m : Act PumpEnd) t := by
  have hr : s.env.raised = f := Env.raised_cons hf
  have hs : s.sample &&& 0x13A = 0 := by rw [State.sample, hr, flagSample_and rfl hf0, h0]
  obtain ⟨q, t, c, e⟩ := k.loop_moves hk (t0 := t0) hq (flagSet_eq_false.2 hs) n p l
  obtain ⟨c1, c2, c3, c4, c5, -⟩ := c.control
  have hd' : t.env.tickScript = d :: ts := c3.trans ((Env.afterSample_tickScript _ _).trans hd)
  have ho' : t.env.tickOwed = 0 := c5.trans ((Env.afterSample_tickOwed _ _).trans ho)
  have tick : t.env.nextTick = s.env.tick + BitVec.ofNat 32 d.toNat := by
    rw [Env.nextTick_cons hd' ho', c4]
    exact congrArg (· + _) (Env.afterSample_tick _ _)
  have tick' : t.ticked.env.tick = t.env.nextTick := Env.afterTick_tick _
  refine ⟨q, _, t.ticked, ⟨(Pumped.start.sampled.moved c).ticked, ?_, ?_, Env.afterTick_tickOwed _, ?_, fun w hw hfw => ?_,
    fun h => ?_⟩, tick'.trans tick, e.trans ?_⟩
  · refine (Env.afterTick_flagScript _).trans (c2.trans ((Env.afterSample_flagScript _ _).trans ?_))
    rw [hf]
    rfl
  · refine (Env.afterTick_tickScript _).trans ?_
    rw [hd']
    rfl
  · have := d.isLt
    rw [tick', tick, toNat_elapsed (by rw [elapsed_self]; omega), elapsed_self, Nat.zero_add]
  · have : t.ticked.env.flags = s.sample := (Env.afterTick_flags _).trans (c1.trans (Env.afterSample_flags _ _))
    rw [this, State.sample, hr, flagSample_and hw (hfw f (List.mem_singleton_self f))]
  · obtain ⟨h1, h2⟩ := h f (List.mem_singleton_self f) s.env.flags s.bus.sdioOp
    rw [State.sample, hr, h1, h2]
    rfl
  · rw [tick']

theorem Pumped.trans {u : State} {r : Word} {j : Nat} (a : Pumped k p l s q m t) (b : Pumped k q m t r j u) :
    Pumped k p l s r j u := by
  induction b with
  | start => exact a
  | sampled _ ih => exact ih.sampled
  | ticked _ ih => exact ih.ticked
  | crossed _ h0 ih => exact ih.crossed h0

/-- Iterations that sample no terminal flag are passed over while the time has not run out. -/
theorem Poller.loop_passes (hk : k.of i m0 bm op fn addr buf size tmo) {fs : List Word} {ds : List (BitVec 31)}
    (hq : s.env.irqSchedule = []) (h0 : s.env.flags &&& 0x13A = 0) (hf : s.env.flagScript = fs ++ frest)
    (hf0 : ∀ f ∈ fs, f &&& 0x13A = 0) (ho : s.env.tickOwed = 0) (hd : s.env.tickScript = ds ++ ts)
    (hl : ds.length = fs.length) (ht : (s.env.tick - t0).toNat + tickSum ds < tmo.toNat ∨ ds = []) (p : Word) (l : Nat) :
    ∃ q m t, k.loop t0 tmo (fs.length + n) p l s = k.loop t0 tmo n q m t ∧
      PumpPassed k fs p l s q m t frest ts t0 ((s.env.tick - t0).toNat + tickSum ds) := by
  induction fs generalizing s ds p l with
  | nil =>
    obtain rfl : ds = [] := List.length_eq_zero_iff.1 hl
    exact ⟨p, l, s, by rw [List.length_nil, Nat.zero_add], .start, hf, hd, ho, rfl, fun _ _ _ => rfl, fun _ => rfl⟩
  | cons f fs ih =>
    obtain ⟨d, ds, rfl⟩ := List.exists_cons_of_length_eq_add_one hl
    obtain ⟨hf1, hfs⟩ := List.forall_mem_cons.1 hf0
    have ht := ht.resolve_right (List.cons_ne_nil d ds)
    have lt := tmo.isLt
    rw [tickSum_cons] at ht ⊢
    obtain ⟨q, m, t, a, tick, e⟩ := k.loop_step hk (t0 := t0) hq h0 hf hf1 ho hd (fs.length + n) p l
    have el : (t.env.tick - t0).toNat = (s.env.tick - t0).toNat + d.toNat := by
      rw [tick]
      exact toNat_elapsed (by omega)
    have hq' : t.env.irqSchedule = [] := a.pumped.same.quiet.trans hq
    have h0' : t.env.flags &&& 0x13A = 0 := by
      rw [a.flags _ rfl (fun g hg => by rw [List.mem_singleton.1 hg, hf1]), h0]
    obtain ⟨r, j, u, e', b⟩ := ih hq' h0' a.samples hfs a.owed a.ticks (Nat.succ.inj hl) (.inl (by omega)) q m
    refine ⟨r, j, u, ?_, a.pumped.trans b.pumped, b.samples, b.ticks, b.owed, ?_, fun w hw hfw => ?_, fun h => ?_⟩
    · rw [List.length_cons, Nat.add_right_comm, e, if_neg (by omega), e']
    · rw [b.elapsed, el, Nat.add_assoc]
    · obtain ⟨h1, h2⟩ := List.forall_mem_cons.1 hfw
      rw [b.flags w hw h2, a.flags w hw (List.forall_mem_singleton.2 h1)]
    · obtain ⟨h1, h2⟩ := List.forall_mem_cons.1 h
      rw [b.left h2, a.left (List.forall_mem_singleton.2 h1)]
      rfl

end

/-! ### The first sample (O35) -/

section
variable {k : Poller} {s : State} {i : Instr} {bm op : Bit} {fn : Fn} {addr : RegAddr} {buf size tmo : Word}
  {pl : Phase}

/-- The pump's loop begins after the first tick reading, with the environment's patience. -/
theorem Poller.pump_pumping (hq : s.env.irqSchedule = []) (buf : Word) (len : Nat) (tmo : Word) :
    k.pump buf len tmo (s.pumping k bm op fn addr pl) = k.loop s.env.afterCmd.nextTick tmo s.env.waitBudget buf len
      (s.pumping k bm op fn addr pl).ticked := by
  refine (k.pump_eq (Env.quiet_afterCmd hq) buf len tmo).trans ?_
  rw [show (s.pumping k bm op fn addr pl).ticked.env.waitBudget = s.env.waitBudget from
    (Env.afterTick_waitBudget _).trans (Env.afterCmd_waitBudget _)]
  rfl

theorem State.sample_pumping (hc : s.env.cmdScript ≠ []) (ht : s.env.tickScript ≠ []) :
    (s.pumping k bm op fn addr pl).ticked.sample = s.sample := by
  obtain ⟨a, as, hc⟩ := List.exists_cons_of_ne_nil hc
  obtain ⟨d, ds, ht⟩ := List.exists_cons_of_ne_nil ht
  show flagSample s.env.afterCmd.afterTick.flags s.env.afterCmd.afterTick.raised s.bus.sdioOp = _
  have ht' : ({ s.env with cmdScript := as } : Env).tickScript = d :: ds := ht
  rw [Env.afterCmd_cons hc, Env.afterTick_cons ht']
  rfl

end

theorem pumpFlags_error {f : Word} (h : f &&& 0x3A ≠ 0) (l : Nat) (s : State) :
    pumpFlags f l s = .ok (.error, { s with h := s.h.orErrors (errorsOfFlags f) }) :=
  run_ite_pos (flagSet_eq_true.2 h) rfl

theorem pumpFlags_complete {f : Word} (h : f &&& 0x3A = 0) (s : State) : pumpFlags f 0 s = .ok (.complete, s) :=
  run_ite_neg (Bool.eq_false_iff.1 (flagSet_eq_false.2 h)) (run_ite_pos rfl rfl)

theorem pumpFlags_short {f : Word} (h : f &&& 0x3A = 0) {l : Nat} (hl : l ≠ 0) (s : State) :
    pumpFlags f l s = .error .pumpShort :=
  run_ite_neg (Bool.eq_false_iff.1 (flagSet_eq_false.2 h)) (run_ite_neg hl rfl)

/-- The flags that end a pump are the error flags and data-complete. -/
theorem flagSet_terminal {f : Word} (h : f &&& 0x3A ≠ 0 ∨ f &&& 0x100 ≠ 0) : flagSet f terminalFlags = true := by
  rw [terminalFlags, flagSet_or, Bool.or_eq_true]
  exact h.imp flagSet_eq_true.2 flagSet_eq_true.2

/-- Settles O35: the loop ends at its first sample. -/
theorem pollStopsOnFlags : Obligations.PollStopsOnFlags := by
  intro s i bm op fn addr buf size tmo sample hq hg hx ho hi hp he hb hc ht hsample
  obtain ⟨k, hk⟩ := Poller.exists_of s.mem hi
  obtain ⟨n, hn⟩ := Nat.exists_eq_add_one_of_ne_zero hb
  obtain ⟨pl, hpl⟩ : ∃ pl, pl = phasePlan s.params bm size s.h.blockSize := ⟨_, rfl⟩
  have hs : (s.pumping k bm op fn addr pl).ticked.sample = sample := (State.sample_pumping hc ht).trans hsample.symm
  have hqt : (s.pumping k bm op fn addr pl).ticked.env.irqSchedule = [] := Env.quiet_afterTick (Env.quiet_afterCmd hq)
  have run : sample &&& 0x3A ≠ 0 ∨ sample &&& 0x100 ≠ 0 → k.pump buf pl.len tmo (s.pumping k bm op fn addr pl) =
      pumpFlags sample pl.len (s.pumping k bm op fn addr pl).ticked.sampled := by
    intro h
    rw [k.pump_pumping hq, hn, k.loop_flags hqt (by rw [hs]; exact flagSet_terminal h), hs]
  have hqs : (s.pumping k bm op fn addr pl).ticked.sampled.env.irqSchedule = [] := Env.quiet_afterSample hqt _
  refine ⟨fun h => ?_, fun h h' => ?_⟩
  · obtain ⟨m, d, e, -⟩ := k.exec_pumpFails (o := .error) hk hq hg hx hpl (by rwa [hpl]) he (by decide) (by exact hqs)
      ((run (.inl h)).trans (pumpFlags_error h _ _))
    refine ⟨_, e, rfl, Pumped.end_handle (buf := buf) (n := pl.len) Pumped.start.ticked.sampled hg _, ?_, ?_⟩
    · exact (Env.afterSample_fifoRx _ _).trans ((Env.afterTick_fifoRx _).trans (Env.afterCmd_fifoRx _))
    · exact (Env.afterSample_fifoTx _ _).trans ((Env.afterTick_fifoTx _).trans (Env.afterCmd_fifoTx _))
  · have hl : pl.len ≠ 0 := by
      have := one_le_phasePlan_len (p := s.params) (bm := bm) (bs := s.h.blockSize) hp hx.1
      rw [hpl]
      omega
    exact k.exec_pumpStops hk hq hg hx hpl (by rwa [hpl]) he ((run (.inr h')).trans (pumpFlags_short h hl _))

/-! ### The timeout (O36) -/

section
variable {k : Poller} {s : State} {i : Instr} {bm op : Bit} {fn : Fn} {addr : RegAddr} {buf size tmo : Word}
  {pl : Phase}

/-- Iterations of a pump from its start that sample no terminal flag. -/
theorem Poller.pump_passes (hk : k.of i s.mem bm op fn addr buf size tmo) {fs frest : List Word} {d : BitVec 31}
    {ds ts : List (BitVec 31)} {n : Nat} (hq : s.env.irqSchedule = []) (h0 : s.env.flags &&& 0x13A = 0)
    (hf : s.env.flagScript = fs ++ frest) (hf0 : ∀ f ∈ fs, f &&& 0x13A = 0) (hd : s.env.tickScript = d :: (ds ++ ts))
    (hl : ds.length = fs.length) (ht : tickSum ds < tmo.toNat ∨ ds = []) (hn : fs.length + n = s.env.waitBudget) :
    ∃ t0 q m t, k.pump buf pl.len tmo (s.pumping k bm op fn addr pl) = k.loop t0 tmo n q m t ∧
      PumpPassed k fs buf pl.len (s.pumping k bm op fn addr pl).ticked q m t frest ts t0 (tickSum ds) := by
  have hd' : s.env.afterCmd.tickScript = d :: (ds ++ ts) := (Env.afterCmd_tickScript _).trans hd
  have tick : (s.pumping k bm op fn addr pl).ticked.env.tick = s.env.afterCmd.nextTick := Env.afterTick_tick _
  have start : ((s.pumping k bm op fn addr pl).ticked.env.tick - s.env.afterCmd.nextTick).toNat + tickSum ds =
      tickSum ds := by
    rw [tick, elapsed_self, Nat.zero_add]
  obtain ⟨q, m, t, e, h⟩ := k.loop_passes hk (s := (s.pumping k bm op fn addr pl).ticked) (n := n)
    (t0 := s.env.afterCmd.nextTick) (frest := frest) (ts := ts) (Env.quiet_afterTick (Env.quiet_afterCmd hq))
    (by rw [show (s.pumping k bm op fn addr pl).ticked.env.flags = s.env.flags from
      (Env.afterTick_flags _).trans (Env.afterCmd_flags _), h0])
    ((Env.afterTick_flagScript _).trans ((Env.afterCmd_flagScript _).trans hf)) hf0 (Env.afterTick_tickOwed _)
    ((Env.afterTick_tickScript _).trans (congrArg List.tail hd')) hl (by rwa [start]) buf pl.len
  rw [start] at h
  refine ⟨_, q, m, t, ?_, h⟩
  rw [k.pump_pumping hq, ← hn, e]

end

/-- Settles O36: the iterations before the last are passed over, and at the last the time has run out. -/
theorem pollTimesOut : Obligations.PollTimesOut := by
  intro s i bm op fn addr buf size tmo fs frest d last ds trest hq hg hx ho hi he h0 hf hf0 hd hl hb ht hT hlt
  obtain ⟨k, hk⟩ := Poller.exists_of s.mem hi
  obtain ⟨pl, hpl⟩ : ∃ pl, pl = phasePlan s.params bm size s.h.blockSize := ⟨_, rfl⟩
  obtain ⟨fs, f, rfl⟩ : ∃ init f, fs = init ++ [f] :=
    ⟨_, _, (List.dropLast_append_getLast (fun h => by simp [h] at hl)).symm⟩
  rw [List.length_append, List.length_singleton] at hl hb
  obtain ⟨hfs, hf1⟩ := List.forall_mem_append.1 hf0
  rw [List.append_assoc] at hf
  obtain ⟨n, hn⟩ := Nat.exists_eq_add_of_le hb
  obtain ⟨t0, q, m, u, e, a⟩ := k.pump_passes (pl := pl) hk (n := n + 1) hq h0 hf hfs hd (Nat.succ.inj hl) ht (by omega)
  have hqp : (s.pumping k bm op fn addr pl).ticked.env.irqSchedule = [] := Env.quiet_afterTick (Env.quiet_afterCmd hq)
  have h0' : u.env.flags &&& 0x13A = 0 := by
    rw [a.flags _ rfl hfs, show (s.pumping k bm op fn addr pl).ticked.env.flags = s.env.flags from
      (Env.afterTick_flags _).trans (Env.afterCmd_flags _), h0]
  obtain ⟨q', m', v, b, tick, e'⟩ := k.loop_step hk (t0 := t0) (a.pumped.same.quiet.trans hqp) h0' a.samples
    (hf1 f (List.mem_singleton_self f)) a.owed a.ticks n q m
  have el : tmo.toNat ≤ (v.env.tick - t0).toNat := by
    rw [tick, toNat_elapsed (by rw [a.elapsed]; exact hlt), a.elapsed]
    exact hT
  rw [if_pos el] at e'
  have hu : Pumped k buf pl.len (s.pumping k bm op fn addr pl) q' m' v :=
    (Pumped.start.ticked).trans (a.pumped.trans b.pumped)
  obtain ⟨mem, dr, e2, hm⟩ := k.exec_pumpFails (o := .timeout) hk hq hg hx hpl (by rwa [hpl]) he (by decide)
    (by exact hu.same.quiet.trans (Env.quiet_afterCmd hq)) (e.trans (e'.trans rfl))
  refine ⟨_, e2, rfl, hu.end_handle hg _, rfl, b.samples, b.ticks, fun x hx' => ?_⟩
  have hl := phasePlan_len_le s.params bm size s.h.blockSize
  have hw := hx.2.2
  rw [← hpl] at hl
  exact (hm s.mem hu.stored.2).outside (by omega) (by omega)

end Sys2Proof.Machine
end

section
/-! The polling transfers with a FIFO that is always ready (O30, O31). -/

namespace Sys2Proof.Machine

/-! ### The iterations a transfer takes (R234, R235) -/

/-- How many iterations move so many bytes: the batches, and a word each for what is left after them. -/
def rounds (l : Nat) : Nat := l / 32 + (l % 32 + 3) / 4

theorem movedLeft_ready (l : Nat) : movedLeft true true l = if 32 ≤ l then l - 32 else l - min 4 l := by
  unfold movedLeft
  by_cases h : 32 ≤ l
  · simp [h]
  · rcases Nat.eq_zero_or_pos l with rfl | h0
    · rfl
    · simp [h, h0, Nat.not_le.1 h]

theorem rounds_movedLeft {l : Nat} (h : 0 < l) : rounds l = rounds (movedLeft true true l) + 1 := by
  rw [movedLeft_ready]
  unfold rounds
  split <;> omega

theorem iterate_movedLeft (l : Nat) : (movedLeft true true)^[rounds l] l = 0 := by
  induction l using Nat.strong_induction_on with
  | _ l ih =>
    rcases Nat.eq_zero_or_pos l with rfl | h
    · rfl
    · have lt : movedLeft true true l < l := by
        rw [movedLeft_ready]
        split <;> omega
      rw [rounds_movedLeft h]
      exact ih _ lt

theorem Poller.read_ready (m : Memory) (buf : Word) : (Poller.read m buf).Ready 0x8000 := by
  intro held b
  have h1 : flagSet (flagSample held 0x8000 b) (BitVec.twoPow 32 15) = true := by
    rw [flagSet_twoPow _ (by decide), flagSample_level (by decide)]
    decide
  have h2 : flagSet (flagSample held 0x8000 b) (BitVec.twoPow 32 19) = false := by
    rw [flagSet_twoPow _ (by decide), flagSample_level (by decide)]
    decide
  exact ⟨h1, congrArg not h2⟩

theorem Poller.write_ready : Poller.write.Ready 0x4000 := by
  intro held b
  have h1 : flagSet (flagSample held 0x4000 b) (BitVec.twoPow 32 14) = true := by
    rw [flagSet_twoPow _ (by decide), flagSample_level (by decide)]
    decide
  have h2 : flagSet (flagSample held 0x4000 b) (BitVec.twoPow 32 16) = false := by
    rw [flagSet_twoPow _ (by decide), flagSample_level (by decide)]
    decide
  exact ⟨h1, congrArg not h2⟩

/-! ### The trace of a pump -/

section
variable {k : Poller} {p q : Word} {l m : Nat} {s t : State}

/-- A read takes one FIFO word for each that its bytes need (R66). -/
theorem Pumped.read_trace (hk : k.rw = 0) (h : Pumped k p l s q m t) :
    ∃ tr, t.trace = tr ++ s.trace ∧ tr.count .fifoRead + (m + 3) / 4 = (l + 3) / 4 ∧
      ∀ a ∈ tr, a = .fifoRead ∨ a = .flags ∨ a = .tick := by
  induction h with
  | start => exact ⟨[], rfl, Nat.zero_add _, fun _ h => absurd h List.not_mem_nil⟩
  | sampled _ ih =>
    obtain ⟨tr, h1, h2, h3⟩ := ih
    exact ⟨.flags :: tr, congrArg _ h1, by rwa [List.count_cons_of_ne (by decide)],
      List.forall_mem_cons.2 ⟨.inr (.inl rfl), h3⟩⟩
  | ticked _ ih =>
    obtain ⟨tr, h1, h2, h3⟩ := ih
    exact ⟨.tick :: tr, congrArg _ h1, by rwa [List.count_cons_of_ne (by decide)],
      List.forall_mem_cons.2 ⟨.inr (.inr rfl), h3⟩⟩
  | crossed _ h0 ih =>
    obtain ⟨tr, h1, h2, h3⟩ := ih
    rw [k.crossed_in hk]
    refine ⟨.fifoRead :: tr, congrArg _ h1, ?_, List.forall_mem_cons.2 ⟨.inl rfl, h3⟩⟩
    rw [List.count_cons_self]
    omega

theorem Pumped.write_trace (hk : k.rw ≠ 0) (h : Pumped k p l s q m t) :
    ∃ tr, t.trace = tr ++ s.trace ∧ ∀ a ∈ tr, (∃ w, a = .fifoWrite w) ∨ a = .flags ∨ a = .tick := by
  induction h with
  | start => exact ⟨[], rfl, fun _ h => absurd h List.not_mem_nil⟩
  | sampled _ ih =>
    obtain ⟨tr, h1, h2⟩ := ih
    exact ⟨.flags :: tr, congrArg _ h1, List.forall_mem_cons.2 ⟨.inr (.inl rfl), h2⟩⟩
  | ticked _ ih =>
    obtain ⟨tr, h1, h2⟩ := ih
    exact ⟨.tick :: tr, congrArg _ h1, List.forall_mem_cons.2 ⟨.inr (.inr rfl), h2⟩⟩
  | crossed _ _ ih =>
    obtain ⟨tr, h1, h2⟩ := ih
    rw [k.crossed_out hk]
    exact ⟨.fifoWrite _ :: tr, congrArg _ h1, List.forall_mem_cons.2 ⟨.inl ⟨_, rfl⟩, h2⟩⟩

end

/-! ### The whole transfer -/

section
variable {k : Poller} {s : State} {i : Instr} {bm op : Bit} {fn : Fn} {addr : RegAddr} {buf size tmo : Word}
  {pl : Phase}

/-- The state after the clean-up of a pump that met no error. -/
theorem Pumped.cleanedUp_eq {q : Word} {m n : Nat} {u : State}
    (hu : Pumped k buf n (s.pumping k bm op fn addr pl) q m u) (hg : s.h.globalState = .idle) :
    u.cleanedUp = { s with
      h := { s.h with lastErrorCodes := 0, context := 0 }
      mem := u.mem
      dpath := ⟨s.h.dataTimeoutCycles, BitVec.ofNat 32 pl.len, BitVec.ofNat 32 pl.bsz, dirOf k.rw, pl.mode, false⟩
      env := u.cleanedUp.env
      trace := .dpathDisable :: .flagClear 0x13A :: u.trace } := by
  have h := hu.end_handle hg 0
  rw [Handle.orErrors_zero] at h
  rw [State.cleanedUp, h, hu.same.state]
  rfl

/-- What data-complete and the clean-up leave in the flag word (R39, R239). -/
theorem flagsCleared_complete {held : Word} {b : Bool} :
    flagsCleared (flagSample held 0x100 b) 0x13A = held &&& 0x00400000 := by
  have hr : (if b then (0x100 : Word) else 0x100 &&& ~~~flSdioit) = 0x100 := by cases b <;> rfl
  rw [flagsCleared, flagSample, hr, BitVec.and_comm, BitVec.and_or_distrib_left, BitVec.and_comm, BitVec.and_assoc,
    show stickyFlags &&& ~~~(0x13A &&& stickyFlags) = 0x00400000 from rfl,
    show ~~~((0x13A : Word) &&& stickyFlags) &&& 0x100 = 0 from rfl]
  exact BitVec.or_zero

/-- A transfer whose FIFO is always ready ends well, with no byte left. -/
theorem Poller.exec_streams (hk : k.of i s.mem bm op fn addr buf size tmo) (hq : s.env.irqSchedule = [])
    (hg : s.h.globalState = .idle) (hx : s.extOk bm buf size) (hpl : pl = phasePlan s.params bm size s.h.blockSize)
    (hlen : pl.len = size.toNat) (he : s.env.cmdAnswer.err = 0) (h0 : s.env.flags &&& 0x13A = 0) {f : Word}
    (hf : k.Ready f) (hf0 : f &&& 0x13A = 0 ∧ f &&& 0x00400000 = 0) {frest : List Word} {d : BitVec 31}
    {ds trest : List (BitVec 31)}
    (hfs : s.env.flagScript = List.replicate (rounds size.toNat) f ++ 0x100 :: frest)
    (hd : s.env.tickScript = d :: (ds ++ trest)) (hl : ds.length = rounds size.toNat) (ht : tickSum ds < tmo.toNat)
    (hn : rounds size.toNat < s.env.waitBudget) :
    ∃ q u, exec i s = .next (u.cleanedUp.answered [0]) ∧
      Pumped k buf size.toNat (s.pumping k bm op fn addr pl) q 0 u ∧ u.env.flagScript = frest ∧
      u.env.tickScript = trest ∧ u.cleanedUp.env.flags = s.env.flags &&& 0x00400000 := by
  obtain ⟨n, hn⟩ := Nat.exists_eq_add_of_lt hn
  have all : ∀ {P : Word → Prop}, P f → ∀ g ∈ List.replicate (rounds size.toNat) f, P g :=
    fun h g hg => (List.eq_of_mem_replicate hg).symm ▸ h
  obtain ⟨t0, q, m, t, e, a⟩ := k.pump_passes (pl := pl) (bm := bm) (op := op) (fn := fn) (addr := addr) hk (n := n + 1)
    hq h0 hfs (all hf0.1) hd (by rw [hl, List.length_replicate]) (.inl ht) (by rw [List.length_replicate]; omega)
  obtain rfl : m = 0 := by
    rw [a.left (all hf), List.length_replicate, hlen, iterate_movedLeft]
  have flags : (s.pumping k bm op fn addr pl).ticked.env.flags = s.env.flags :=
    (Env.afterTick_flags _).trans (Env.afterCmd_flags _)
  have held : t.env.flags &&& 0x13A = 0 := by rw [a.flags _ rfl (all hf0.1), flags, h0]
  have held' : t.env.flags &&& 0x00400000 = s.env.flags &&& 0x00400000 := by rw [a.flags _ rfl (all hf0.2), flags]
  have raised : t.env.raised = 0x100 := Env.raised_cons a.samples
  have hq' : t.env.irqSchedule = [] :=
    a.pumped.same.quiet.trans (Env.quiet_afterTick (Env.quiet_afterCmd hq))
  have noError : t.sample &&& 0x3A = 0 := by
    rw [State.sample, raised, flagSample_and (m := 0x3A) rfl rfl]
    calc t.env.flags &&& 0x3A = t.env.flags &&& 0x13A &&& 0x3A := by rw [BitVec.and_assoc]; rfl
      _ = 0 := by rw [held]; exact BitVec.zero_and
  have complete : t.sample &&& 0x100 ≠ 0 := by
    intro h
    have bit := congrArg (BitVec.getLsbD · 8) h
    rw [State.sample, raised, flagSample] at bit
    cases t.bus.sdioOp <;> simp [flSdioit] at bit
  have pump : k.pump buf pl.len tmo (s.pumping k bm op fn addr pl) = .ok (.complete, t.sampled) := by
    rw [e, k.loop_flags hq' (flagSet_terminal (.inr complete)), pumpFlags_complete noError]
  have hu : Pumped k buf size.toNat (s.pumping k bm op fn addr pl) q 0 t.sampled :=
    hlen ▸ (Pumped.start.ticked.trans a.pumped).sampled
  refine ⟨q, t.sampled, k.exec_completes hk hq hg hx hpl (fun _ => hlen) he (Env.quiet_afterSample hq' _) pump, hu, ?_, ?_, ?_⟩
  · exact (Env.afterSample_flagScript _ _).trans (congrArg List.tail a.samples)
  · exact (Env.afterSample_tickScript _ _).trans a.ticks
  · show flagsCleared (t.env.afterSample t.bus.sdioOp).flags staticFlags = _
    rw [Env.afterSample_flags, raised, ← held']
    exact flagsCleared_complete

end

/-- Settles O30: the words of the FIFO are read one after another, none else. -/
theorem readExtMovesBytes : Obligations.ReadExtMovesBytes := by
  intro s bm op fn addr buf size tmo pl n frest words wrest d ds trest hq hg hx hpl hlen he h0 hn hfs hd hl ht hb hrx hw
  obtain rfl : n = rounds size.toNat := hn
  obtain ⟨q, u, e, hu, h1, h2, h3⟩ := Poller.exec_streams (k := .read s.mem buf) (op := op) (fn := fn) (addr := addr)
    (.inl ⟨rfl, rfl⟩) hq hg hx hpl hlen he h0 (Poller.read_ready _ _) ⟨rfl, rfl⟩ hfs hd hl ht hb
  obtain ⟨ws, r1, r2, r3, r4⟩ := hu.read_words rfl ((Env.afterCmd_fifoRx _).trans hrx) hw
  obtain rfl : ws = [] := List.length_eq_zero_iff.1 r2
  obtain ⟨tr, t1, t2, t3⟩ := hu.read_trace rfl
  refine ⟨u.cleanedUp.env, tr, ?_, r1, r3.trans (Env.afterCmd_fifoTx _), h3, h1, h2, hu.same.cmdScript, t2.trans hw.symm, t3⟩
  have mem : u.mem = s.mem.writeBytes buf ((words.flatMap wordBytes).take size.toNat) := r4
  have len : BitVec.ofNat 32 pl.len = size := by rw [hlen, BitVec.ofNat_toNat, BitVec.setWidth_eq]
  rw [e, hu.cleanedUp_eq hg, mem, t1, len, show (s.pumping (.read s.mem buf) bm op fn addr pl).trace =
    .cmd 53 (enc53 0 fn bm op addr pl.count) :: .dpathEnable ::
      .dpathConfig s.h.dataTimeoutCycles size (BitVec.ofNat 32 pl.bsz) .rd pl.mode :: s.trace by rw [← len]; rfl]
  rfl

/-- Settles O31: the words of the buffer are pushed one after another, and the FIFO takes each. -/
theorem writeExtMovesBytes : Obligations.WriteExtMovesBytes := by
  intro s bm op fn addr buf size tmo pl n frest words full d ds trest hq hg hx hpl hlen he h0 hn hfs hd hl ht hb hw htx
  obtain rfl : n = rounds size.toNat := hn
  obtain ⟨q, u, e, hu, h1, h2, h3⟩ := Poller.exec_streams (k := .write) (op := op) (fn := fn) (addr := addr)
    (.inr ⟨rfl, rfl⟩) hq hg hx hpl hlen he h0 Poller.write_ready ⟨rfl, rfl⟩ hfs hd hl ht hb
  have hw : words = s.mem.words buf size.toNat := hw
  have hwl : words.length = (size.toNat + 3) / 4 := by rw [hw, Memory.length_words]
  obtain ⟨r1, r2, bs, r3, r4, r5⟩ := hu.write_words (by decide) ((Env.afterCmd_txFullScript _).trans htx)
    (by rw [List.length_replicate, hwl])
  obtain rfl : bs = [] := List.length_eq_zero_iff.1 r4
  have sent : u.env.fifoTx = s.env.fifoTx ++ words := by
    refine ((List.append_nil _).symm.trans r5).trans ?_
    rw [show (s.pumping .write bm op fn addr pl).mem = s.mem from rfl, ← hw,
      keptWords_none List.length_replicate fun b hb => List.eq_of_mem_replicate hb]
    exact congrArg (· ++ words) (Env.afterCmd_fifoTx _)
  obtain ⟨tr, t1, t2⟩ := hu.write_trace (by decide)
  refine ⟨u.cleanedUp.env, tr, ?_, sent, r3, r2.trans (Env.afterCmd_fifoRx _), h3, h1, h2, hu.same.cmdScript, t2⟩
  have mem : u.mem = s.mem := r1
  have len : BitVec.ofNat 32 pl.len = size := by rw [hlen, BitVec.ofNat_toNat, BitVec.setWidth_eq]
  rw [e, hu.cleanedUp_eq hg, mem, t1, len, show (s.pumping .write bm op fn addr pl).trace =
    .cmd 53 (enc53 1 fn bm op addr pl.count) :: .dpathEnable ::
      .dpathConfig s.h.dataTimeoutCycles size (BitVec.ofNat 32 pl.bsz) .wr pl.mode :: s.trace by rw [← len]; rfl]
  rfl

end Sys2Proof.Machine
end

section
/-! How the handler runs (R340 to R344): the snapshot and its clearing, the dispatcher, the transfer part, and its events. -/

namespace Sys2Proof.Machine

/-! ### The snapshot -/

section
variable {x m : Word}

/-- The flags that the handler consumes are all that its parts look at. -/
theorem and_consumed (hm : (0x0040013A : Word) &&& m = m) : x &&& 0x0040013A &&& m = x &&& m := by
  rw [BitVec.and_assoc, hm]

theorem flagSet_consumed (hm : (0x0040013A : Word) &&& m = m) : flagSet (x &&& 0x0040013A) m = flagSet x m := by
  rw [flagSet, and_consumed hm]
  rfl

theorem errorsOfFlags_consumed : errorsOfFlags (x &&& 0x0040013A) = errorsOfFlags x := by
  unfold errorsOfFlags
  rw [flagSet_consumed (m := flDcrcfail) rfl, flagSet_consumed (m := flDtimeout) rfl, flagSet_consumed (m := flRxoverr) rfl,
    flagSet_consumed (m := flTxunderr) rfl]

theorem transferPart_consumed : transferPart (x &&& 0x0040013A) = transferPart x := by
  unfold transferPart onDataError
  rw [flagSet_consumed (m := errFlags) rfl, flagSet_consumed (m := flDataend) rfl, errorsOfFlags_consumed]

end

/-- The state after the handler's sample and its clearing of the flags `f`. -/
def State.taken (s : State) (f : Word) : State :=
  { s with env := s.consumed f, trace := .flagClear f :: .flags :: s.trace }

section
variable {s t u : State} {f : Word} {fns : List Nat} {ev : Option EventKind}

theorem serveInterrupt_reset (hg : s.h.globalState = .reset) : serveInterrupt s = .ok ([], s) :=
  run_get (run_ite_pos hg rfl)

theorem serveInterrupt_nothing (hg : s.h.globalState ≠ .reset) (h0 : s.snapshot &&& 0x0040013A = 0) :
    serveInterrupt s = .ok ([], s.sampled) :=
  run_get (run_ite_neg hg (run_bind rfl (run_ite_pos h0 rfl)))

/-- The handler with a source pending: dispatcher and transfer part, one after the other. -/
theorem serveInterrupt_pending (hg : s.h.globalState ≠ .reset) (hf : f = s.snapshot &&& 0x0040013A) (h0 : f ≠ 0)
    (hd : (if flagSet f flSdioit then dispatch else pure [] : Act (List Nat)) (s.taken f) = .ok (fns, u))
    (ht : transferPart f u = .ok (ev, t)) :
    serveInterrupt s = .ok (fns.map EventKind.fnIrq ++ ev.toList, t) := by
  subst hf
  rw [flagSet_consumed (m := flSdioit) rfl] at hd
  rw [transferPart_consumed] at ht
  refine run_get (run_ite_neg hg (run_bind rfl (run_ite_neg h0 (run_bind rfl ?_))))
  by_cases hs : flagSet s.snapshot flSdioit = true
  · rw [if_pos hs] at hd
    exact run_ite_pos hs (run_bind hd (run_bind ht rfl))
  · rw [if_neg hs] at hd
    obtain ⟨rfl, rfl⟩ := Prod.mk.inj (Except.ok.inj hd)
    exact run_ite_neg hs (run_bind rfl (run_bind ht rfl))

/-- The injected handler: what it serves, its events, and the response. -/
theorem exec_irqHandler {evs : List EventKind} (hs : serveInterrupt s = .ok (evs, t))
    (he : emitAll submitDuring evs t = .ok ((), u)) : exec .irqHandler s = .next (u.answered [0]) := by
  have legal : s.h.globalState ∈ legalStates .irqHandler s := by
    rw [legalStates]
    cases s.h.globalState <;> decide
  exact (request_runs_unchanged (i := .irqHandler) rfl legal rfl).trans
    (finish_ok (run_bind (run_bind hs he) rfl))

/-- The same where no callback submits anything. -/
theorem exec_irqHandler_emits {evs : List EventKind} (hs : serveInterrupt s = .ok (evs, t)) (hn : t.noCallbacks) :
    exec .irqHandler s = .next (State.answered { t with
      trace := (evs.map fun k => PortAction.emit ⟨k, t.h.eventArg k, t.h.slot k⟩).reverse ++ t.trace } [0]) :=
  exec_irqHandler hs (emitAll_noCallbacks submitDuring_nil evs hn)

end

theorem Env.consumed_callbackScript (s : State) (f : Word) : (s.consumed f).callbackScript = s.env.callbackScript :=
  Env.afterSample_callbackScript _ _

/-! ### The dispatcher (R341) -/

section
variable {u : State}

theorem setBits_fnBit : ∀ fn : Fn, (setBits ((1 : Byte) <<< fn.toNat)).take 1 = [fn.toNat] := by decide

theorem dispatch_one {fn : Fn} (hc : u.h.fnIrqCount = 1) (hm : u.h.fnIrqMask = (1 : Byte) <<< fn.toNat) :
    dispatch u = .ok ([fn.toNat], u) := by
  refine run_get (run_ite_neg (by rw [hc]; decide) (run_ite_pos hc ?_))
  rw [hm, setBits_fnBit]
  rfl

/-- The functions that a response of the pending register names: its bits 1 to 7 (R341). -/
theorem setBits_pending (r : Word) :
    setBits (respByte r &&& 0xFE) = [1, 2, 3, 4, 5, 6, 7].filter (fun k => r.getLsbD k) := by
  rw [setBits, show List.range 8 = 0 :: [1, 2, 3, 4, 5, 6, 7] from rfl, List.filter_cons_of_neg]
  · refine List.filter_congr fun k hk => ?_
    have h : k < 8 ∧ (0xFE : Byte).getLsbD k = true := by
      revert k
      decide
    rw [BitVec.getLsbD_and, h.2, Bool.and_true, respByte, BitVec.getLsbD_extractLsb', decide_eq_true h.1, Bool.true_and,
      Nat.zero_add]
  · rw [BitVec.getLsbD_and, show (0xFE : Byte).getLsbD 0 = false from rfl, Bool.and_false]
    exact Bool.false_ne_true

theorem dispatch_reads {r : Except Fault (List Nat × State)} (hc : 2 ≤ u.h.fnIrqCount.toNat)
    (k : (if u.env.cmdAnswer.err = 0 then
        pure ([1, 2, 3, 4, 5, 6, 7].filter fun k => u.env.cmdAnswer.resp.getLsbD k)
      else do
        updH (·.orErrors (errmap u.env.cmdAnswer.err))
        pure [] : Act (List Nat)) { u with env := u.env.afterCmd, trace := .cmd 52 0x00000A00 :: u.trace } = r) :
    dispatch u = r := by
  have h0 : u.h.fnIrqCount ≠ 0 := fun h => by rw [h] at hc; exact absurd hc (by decide)
  have h1 : u.h.fnIrqCount ≠ 1 := fun h => by rw [h] at hc; exact absurd hc (by decide)
  rw [← setBits_pending] at k
  exact run_get (run_ite_neg h0 (run_ite_neg h1 (run_bind rfl k)))

end

/-! ### The transfer part (R342, R343) -/

/-- A DMA request is in flight. -/
def Handle.dmaFlies (h : Handle) : Prop := h.context = 0b1101 ∨ h.context = 0b1110

theorem Handle.dmaFlies.dma {h : Handle} (c : h.dmaFlies) : h.context.getLsbD 3 = true := by
  rcases c with c | c <;> rw [c] <;> rfl

/-- A DMA write changes no memory. -/
theorem Landed.write {s : State} {n : Nat} {m : Memory} {ds : List Byte} {k : Nat} (h : Landed s n m ds k)
    (c : s.h.context = 0b1110) : m = s.mem ∧ ds = s.env.dmaScript ∧ k = s.env.drawn :=
  h.same fun hr => by rw [c] at hr; exact absurd hr.2 (by decide)

section
variable {u : State} {f : Word}

theorem transferPart_none (h1 : f &&& 0x3A = 0) (h2 : f &&& 0x100 = 0) : transferPart f u = .ok (none, u) :=
  run_ite_neg (Bool.eq_false_iff.1 (flagSet_eq_false.2 h1)) (run_ite_neg (Bool.eq_false_iff.1 (flagSet_eq_false.2 h2)) rfl)

/-- An error flag (R343). -/
theorem transferPart_error (c : u.h.dmaFlies) (h : f &&& 0x3A ≠ 0) :
    ∃ m ds k, transferPart f u = .ok (some .error, { u with
        h := { u.h with
          globalState := .idle, context := 0, remainingData := 0
          lastErrorCodes := u.h.lastErrorCodes ||| errorsOfFlags f, irqMask := u.h.irqMask &&& ~~~0x13A }
        mem := m
        dpath := { u.dpath with enabled := false }
        dma := none
        env := { u.env with dmaScript := ds, drawn := k }
        trace := .dmaTeardown :: .dpathDisable :: .irqDisable 0x13A :: u.trace }) ∧
      Landed u u.h.unsettled m ds k := by
  obtain ⟨m, ds, k, e, hl⟩ := dropDma_landed { u with
    h := u.h.withIrqMask (u.h.irqMask &&& ~~~terminalFlags)
    dpath := { u.dpath with enabled := false }
    trace := .dpathDisable :: .irqDisable terminalFlags :: u.trace }
  have hd : (u.h.withIrqMask (u.h.irqMask &&& ~~~terminalFlags)).context.getLsbD 3 = true := c.dma
  rw [hd] at e
  refine ⟨m, ds, k, run_ite_pos (flagSet_eq_true.2 h) (run_bind (a := ()) ?_ rfl), hl.same, hl.elsewhere⟩
  refine run_bind rfl (run_bind rfl (run_bind e ?_))
  simp only [bind_apply, updH_apply, Handle.orErrors, Handle.withRemaining, Handle.withContext, Handle.withGlobal,
    Handle.withIrqMask]
  rfl

/-- The state in which the bytes of a phase that is complete land (R255). -/
def State.settling (u : State) : State :=
  { u with
    h := u.h.withIrqMask (u.h.irqMask &&& ~~~terminalFlags)
    dpath := { u.dpath with enabled := false }
    dma := none
    trace := .dmaTeardown :: .dpathDisable :: .irqDisable terminalFlags :: u.trace }

/-- Data-complete: the phase is settled, and then the request ends or goes on. -/
theorem transferPart_complete {m : Memory} {ds : List Byte} {k : Nat} {r : Except Fault (Option EventKind × State)}
    (c : u.h.dmaFlies) (h1 : f &&& 0x3A = 0) (h2 : f &&& 0x100 ≠ 0)
    (e : landDma u.h.xferSize.toNat u.settling =
      .ok ((), { u.settling with mem := m, env := { u.env with dmaScript := ds, drawn := k } }))
    (h : (if u.h.remainingData = 0 then do
        updH (·.withContext ctxNone)
        updH (·.withGlobal .idle)
        pure (some (if ctxIsRead u.h.context then .rxComplete else .txComplete))
      else do
        let going ← startPhase noPoint (if ctxIsWrite u.h.context then 1 else 0) u.h.nextRegAddr u.h.nextDataAddr
          u.h.remainingData
        pure (if going then none else some .error) : Act (Option EventKind))
      { u.settling with mem := m, env := { u.env with dmaScript := ds, drawn := k } } = r) :
    transferPart f u = r :=
  run_ite_neg (Bool.eq_false_iff.1 (flagSet_eq_false.2 h1)) <| run_ite_pos (flagSet_eq_true.2 h2) <|
    run_get <| run_ite_pos c.dma <| run_bind rfl <| run_bind rfl <| run_bind rfl <| run_bind e h

/-- Data-complete of the last phase (R255): the engine's bytes land, and the request ends. -/
theorem transferPart_last {m : Memory} {ds : List Byte} {k : Nat} (c : u.h.dmaFlies) (h1 : f &&& 0x3A = 0)
    (h2 : f &&& 0x100 ≠ 0) (hr : u.h.remainingData = 0)
    (e : landDma u.h.xferSize.toNat u.settling =
      .ok ((), { u.settling with mem := m, env := { u.env with dmaScript := ds, drawn := k } })) :
    transferPart f u = .ok (some (if ctxIsRead u.h.context then .rxComplete else .txComplete), { u with
      h := { u.h with globalState := .idle, context := 0, irqMask := u.h.irqMask &&& ~~~0x13A }
      mem := m
      dpath := { u.dpath with enabled := false }
      dma := none
      env := { u.env with dmaScript := ds, drawn := k }
      trace := .dmaTeardown :: .dpathDisable :: .irqDisable 0x13A :: u.trace }) :=
  transferPart_complete c h1 h2 e (run_ite_pos hr rfl)

theorem landDma_settling (u : State) :
    ∃ m ds k, landDma u.h.xferSize.toNat u.settling =
        .ok ((), { u.settling with mem := m, env := { u.env with dmaScript := ds, drawn := k } }) ∧
      Landed u u.h.xferSize.toNat m ds k := by
  obtain ⟨m, ds, k, e, hl⟩ := landDma_landed u.h.xferSize.toNat u.settling
  exact ⟨m, ds, k, e, hl.same, hl.elsewhere⟩

end

/-! ### Phases (R253, R254) -/

theorem modeBit_eq (m : Mode) : modeBit m = if m = .block then 1 else 0 := by cases m <;> rfl

/-- `dma_abort` in an armed phase: what the bytes of the phase and of the phases after it may leave. -/
theorem dmaAbort_landed (code : Word) (s : State) :
    ∃ m ds k, dmaAbort noPoint code s = .ok ((), { s with
        h := { s.h with
          globalState := .idle, context := 0, remainingData := 0, lastErrorCodes := s.h.lastErrorCodes ||| code
          irqMask := s.h.irqMask &&& ~~~0x13A }
        mem := m
        dpath := { s.dpath with enabled := false }
        dma := none
        env := { s.env with dmaScript := ds, drawn := k, flags := flagsCleared s.env.flags 0x13A }
        trace := .flagClear 0x13A :: .dmaTeardown :: .dpathDisable :: .irqDisable 0x13A :: s.trace }) ∧
      Landed s s.h.unsettled m ds k := by
  obtain ⟨m, ds, k, e, hl⟩ := landDma_landed s.h.unsettled s.settling
  refine ⟨m, ds, k, ?_, hl.same, hl.elsewhere⟩
  refine run_bind rfl (run_bind rfl (run_bind rfl (run_get (run_bind e (run_bind rfl ?_)))))
  simp only [State.settling, bind_apply, updH_apply, Handle.orErrors, Handle.withRemaining, Handle.withContext,
    Handle.withGlobal, Handle.withIrqMask]
  rfl

section
variable {s : State} {rw : Bit} {reg : RegAddr} {buf rem : Word}

theorem startPhase_goes (he : s.env.cmdAnswer.err = 0) : startPhase noPoint rw reg buf rem s =
    .ok (true, { s.phaseArmed rw reg buf rem with
      h := (s.phaseArmed rw reg buf rem).h.withIrqMask (s.h.irqMask ||| 0x13A)
      trace := .irqEnable 0x13A :: (s.phaseArmed rw reg buf rem).trace }) :=
  (startPhase_noPoint rw reg buf rem s).trans (if_pos he)

theorem startPhase_fails (he : s.env.cmdAnswer.err ≠ 0) :
    ∃ m ds k, startPhase noPoint rw reg buf rem s = .ok (false, { s.phaseArmed rw reg buf rem with
        h := { (s.phaseArmed rw reg buf rem).h with
          globalState := .idle, context := 0, remainingData := 0
          lastErrorCodes := s.h.lastErrorCodes ||| errmap s.env.cmdAnswer.err, irqMask := s.h.irqMask &&& ~~~0x13A }
        mem := m
        dpath := { (s.phaseArmed rw reg buf rem).dpath with enabled := false }
        dma := none
        env := { s.env.afterCmd with dmaScript := ds, drawn := k, flags := flagsCleared s.env.afterCmd.flags 0x13A }
        trace := .flagClear 0x13A :: .dmaTeardown :: .dpathDisable :: .irqDisable 0x13A ::
          (s.phaseArmed rw reg buf rem).trace }) ∧
      Landed (s.phaseArmed rw reg buf rem) rem.toNat m ds k := by
  obtain ⟨m, ds, k, e, hl⟩ := dmaAbort_landed (errmap s.env.cmdAnswer.err) (s.phaseArmed rw reg buf rem)
  have hu : (s.phaseArmed rw reg buf rem).h.unsettled = rem.toNat := s.h.withPhase_unsettled ..
  rw [hu] at hl
  refine ⟨m, ds, k, ?_, hl⟩
  rw [startPhase_noPoint, if_neg he, e]
  rfl

end

end Sys2Proof.Machine
end

section
/-! The statements on one invocation of the handler (O38 to O44), and on the first phase of a DMA request (O37). -/

namespace Sys2Proof.Machine

/-- Settles O38: the two early returns of the handler. -/
theorem handlerWithNothingPending : Obligations.HandlerWithNothingPending := fun _ =>
  ⟨fun hg => exec_irqHandler (serveInterrupt_reset hg) rfl,
    fun hg h0 => exec_irqHandler (serveInterrupt_nothing hg h0) rfl⟩

/-! ### Events of functions (R341, R344 (c)) -/

/-- The trace of the events of one invocation: the functions' first, then the transfer's. -/
theorem map_events (h : Handle) (fns : List Nat) (ev : Option EventKind) :
    ((fns.map EventKind.fnIrq ++ ev.toList).map fun k => PortAction.emit ⟨k, h.eventArg k, h.slot k⟩).reverse =
      (ev.toList.map fun k => PortAction.emit ⟨k, h.eventArg k, h.slot k⟩) ++
        (fns.map fun k => PortAction.emit ⟨.fnIrq k, BitVec.ofNat 32 k, h.fnCb.get k⟩).reverse := by
  rw [List.map_append, List.reverse_append, List.map_map]
  cases ev <;> rfl

section
variable {s t u : State} {f : Word} {fns : List Nat}

/-- One invocation that has a cause, with no callback scripted: its events come last. -/
theorem exec_irqHandler_serves {ev : Option EventKind} (hg : s.h.globalState ≠ .reset)
    (hf : f = s.snapshot &&& 0x0040013A) (h0 : f ≠ 0)
    (hd : (if flagSet f flSdioit then dispatch else pure [] : Act (List Nat)) (s.taken f) = .ok (fns, u))
    (ht : transferPart f u = .ok (ev, t)) (hn : t.noCallbacks) :
    exec .irqHandler s = .next (State.answered { t with
      trace := (ev.toList.map fun k => PortAction.emit ⟨k, t.h.eventArg k, t.h.slot k⟩) ++
        ((fns.map fun k => PortAction.emit ⟨.fnIrq k, BitVec.ofNat 32 k, t.h.fnCb.get k⟩).reverse ++ t.trace) } [0]) := by
  rw [exec_irqHandler_emits (serveInterrupt_pending hg hf h0 hd ht) hn, map_events, List.append_assoc]

/-- The same without a card interrupt. -/
theorem exec_irqHandler_transfers {k : EventKind} (hg : s.h.globalState ≠ .reset)
    (hf : f = s.snapshot &&& 0x0040013A) (h0 : f ≠ 0) (hs : f &&& 0x00400000 = 0)
    (ht : transferPart f (s.taken f) = .ok (some k, t)) (hn : t.noCallbacks) :
    exec .irqHandler s = .next (State.answered { t with
      trace := .emit ⟨k, t.h.eventArg k, t.h.slot k⟩ :: t.trace } [0]) :=
  exec_irqHandler_serves hg hf h0 (run_ite_neg (Bool.eq_false_iff.1 (flagSet_eq_false.2 hs)) rfl) ht hn

theorem taken_noCallbacks (hn : s.noCallbacks) : (s.taken f).noCallbacks :=
  (Env.consumed_callbackScript s f).trans hn

end

/-- Settles O39: the fast path, and the read of the pending byte with its two ends. -/
theorem dispatchCallsFunctions : Obligations.DispatchCallsFunctions := by
  have line : flagSet 0x00400000 flSdioit = true := rfl
  refine ⟨fun s fn hg hf hn h0 hc hm => ?_, fun s e hg hf hn hc he => ?_⟩
  · exact exec_irqHandler_serves hg hf.symm (by decide) (run_ite_pos line (dispatch_one hc hm))
      (transferPart_none rfl rfl) (taken_noCallbacks hn)
  · subst he
    have hn' : (s.consumed 0x00400000).afterCmd.callbackScript = [] :=
      (Env.afterCmd_callbackScript _).trans (taken_noCallbacks hn)
    refine ⟨fun ha => ?_, fun ha => ?_⟩
    · exact exec_irqHandler_serves hg hf.symm (by decide)
        (run_ite_pos line (dispatch_reads hc (run_ite_pos ha rfl))) (transferPart_none rfl rfl) hn'
    · exact exec_irqHandler_serves hg hf.symm (by decide)
        (run_ite_pos line (dispatch_reads hc (run_ite_neg ha (run_bind rfl rfl)))) (transferPart_none rfl rfl) hn'

/-! ### The ends of a DMA request -/

theorem ne_reset_of_active {s : State} (hg : s.h.globalState = .active) : s.h.globalState ≠ .reset := by
  rw [hg]
  decide

theorem consumed_dmaScript (s : State) (f : Word) : (s.consumed f).dmaScript = s.env.dmaScript :=
  Env.afterSample_dmaScript _ _

/-- Settles O40: the engine's bytes land, then the request ends, then its event. -/
theorem dmaLastPhaseCompletes : Obligations.DmaLastPhaseCompletes := by
  intro s acts hg hf hn hr hacts
  subst hacts
  refine ⟨fun bytes rest hc hs hl => ?_, fun hc => ?_⟩
  · have c : (s.taken 0x100).h.dmaFlies := .inl hc
    have bytes_eq := Env.dmaBytes_append hl (e := s.consumed 0x100) ((consumed_dmaScript s _).trans hs)
    have e : landDma (s.taken 0x100).h.xferSize.toNat (s.taken 0x100).settling = .ok ((), { (s.taken 0x100).settling with
        mem := s.mem.writeBytes s.h.pXferBuff bytes
        env := { s.consumed 0x100 with dmaScript := rest, drawn := (s.consumed 0x100).drawn } }) := by
      rw [landDma, upd_apply, if_pos (show _ = true by
        rw [show (s.taken 0x100).settling.h.context = 0b1101 from hc]
        rfl)]
      exact congrArg (fun r : List Byte × Env => Except.ok ((), { (s.taken 0x100).settling with
        mem := s.mem.writeBytes s.h.pXferBuff r.1, env := r.2 })) bytes_eq
    have ht := transferPart_last (f := 0x100) c rfl (by decide) hr e
    rw [show (s.taken 0x100).h.context = 0b1101 from hc] at ht
    exact exec_irqHandler_transfers (ne_reset_of_active hg) hf.symm (by decide) rfl ht
      (taken_noCallbacks (f := 0x100) hn)
  · have c : (s.taken 0x100).h.dmaFlies := .inr hc
    obtain ⟨m, ds, k, e, hl⟩ := landDma_settling (s.taken 0x100)
    obtain ⟨rfl, rfl, rfl⟩ := hl.write hc
    have ht := transferPart_last (f := 0x100) c rfl (by decide) hr e
    rw [show (s.taken 0x100).h.context = 0b1110 from hc] at ht
    exact exec_irqHandler_transfers (ne_reset_of_active hg) hf.symm (by decide) rfl ht
      (taken_noCallbacks (f := 0x100) hn)

/-- Settles O43: the request is dropped with the codes of every error flag. -/
theorem dmaErrorEnds : Obligations.DmaErrorEnds := by
  intro s f codes hg hf he hs hn hc hcodes
  subst hcodes
  obtain ⟨m, ds, k, e, hl⟩ := transferPart_error (u := s.taken f) hc he
  refine ⟨m, ds, k, ?_, fun c => ?_, hl.elsewhere⟩
  · exact exec_irqHandler_transfers (ne_reset_of_active hg) hf (by rintro rfl; exact he rfl) hs e
      (taken_noCallbacks (f := f) hn)
  · obtain ⟨h1, h2, h3⟩ := hl.write c
    exact ⟨h1, h2.trans (consumed_dmaScript s f), h3⟩

/-! ### The phases after the first -/

section
variable {e : Env} {ds : List Byte} {k : Nat}

/-- With a scripted answer, what bytes that landed have used up of the environment has nothing to do with a command. -/
theorem Env.afterCmd_landed (h : e.cmdScript ≠ []) : Env.afterCmd { e with dmaScript := ds, drawn := k } =
    { e.afterCmd with dmaScript := ds, drawn := k } := by
  obtain ⟨a, as, h⟩ := List.exists_cons_of_ne_nil h
  rw [Env.afterCmd_cons h, Env.afterCmd_cons (e := { e with dmaScript := ds, drawn := k }) h]

theorem Env.cmdAnswer_landed (h : e.cmdScript ≠ []) :
    Env.cmdAnswer { e with dmaScript := ds, drawn := k } = e.cmdAnswer := by
  obtain ⟨a, as, h⟩ := List.exists_cons_of_ne_nil h
  rw [Env.cmdAnswer_cons h, Env.cmdAnswer_cons (e := { e with dmaScript := ds, drawn := k }) h]

theorem Env.afterCmd_drawn (h : e.cmdScript ≠ []) : e.afterCmd.drawn = e.drawn := by
  obtain ⟨a, as, h⟩ := List.exists_cons_of_ne_nil h
  rw [Env.afterCmd_cons h]

end

section
variable {s : State} {f : Word}

theorem consumed_cmdScript (s : State) (f : Word) : (s.consumed f).cmdScript = s.env.cmdScript :=
  Env.afterSample_cmdScript _ _

theorem consumed_cmdAnswer (h : s.env.cmdScript ≠ []) : (s.consumed f).cmdAnswer = s.env.cmdAnswer := by
  obtain ⟨a, as, h⟩ := List.exists_cons_of_ne_nil h
  rw [Env.cmdAnswer_cons h, Env.cmdAnswer_cons ((consumed_cmdScript s f).trans h)]

/-- The direction of a DMA request, from its context (R28, R255). -/
theorem direction_of_context {rw : Bit} {dir : Dir} (hc : s.h.context = 0b1101 ∧ rw = 0 ∧ dir = .rd ∨
    s.h.context = 0b1110 ∧ rw = 1 ∧ dir = .wr) :
    s.h.dmaFlies ∧ rw = (if ctxIsWrite s.h.context then 1 else 0) ∧ dir = dirOf rw ∧ (rw = 1 → s.h.context = 0b1110) := by
  rcases hc with ⟨hc, rfl, rfl⟩ | ⟨hc, rfl, rfl⟩
  · exact ⟨.inl hc, by rw [hc]; rfl, rfl, fun h => absurd h (by decide)⟩
  · exact ⟨.inr hc, by rw [hc]; rfl, rfl, fun _ => hc⟩

/-- The state in which the phase after a complete one begins: its bytes have landed. -/
def State.settled (s : State) (m : Memory) (ds : List Byte) (k : Nat) : State :=
  { (s.taken 0x100).settling with mem := m, env := { s.consumed 0x100 with dmaScript := ds, drawn := k } }

/-- Data-complete of a phase that is not the last: its bytes land, and the next one is started. -/
theorem transferPart_continues {going : Bool} {t : State} {m : Memory} {ds : List Byte} {k : Nat} (c : s.h.dmaFlies)
    (hr : s.h.remainingData ≠ 0)
    (e : landDma (s.taken 0x100).h.xferSize.toNat (s.taken 0x100).settling = .ok ((), s.settled m ds k))
    (h : startPhase noPoint (if ctxIsWrite s.h.context then 1 else 0) s.h.nextRegAddr s.h.nextDataAddr
      s.h.remainingData (s.settled m ds k) = .ok (going, t)) :
    transferPart 0x100 (s.taken 0x100) = .ok (if going then none else some .error, t) :=
  transferPart_complete c rfl (by decide) e (run_ite_neg hr (run_bind h rfl))

end

/-- Settles O41: the next phase is armed, and its command succeeds. -/
theorem dmaContinues : Obligations.DmaContinues := by
  intro s rw dir len bsz next pl hg hf hr hc hs ha hpl hlen hbsz hnext
  obtain ⟨c, hrw, hdir, hw⟩ := direction_of_context hc
  subst hlen hbsz hnext hpl hdir
  obtain ⟨m, ds, k, e, hl⟩ := landDma_settling (s.taken 0x100)
  have hs' : (s.consumed 0x100).cmdScript ≠ [] := by rwa [consumed_cmdScript]
  have ha' : (s.settled m ds k).env.cmdAnswer.err = 0 := by
    rw [State.settled, Env.cmdAnswer_landed hs', consumed_cmdAnswer hs, ha]
  refine ⟨m, ds, k, ?_, fun h => ?_, hl.elsewhere⟩
  · have ht := transferPart_continues c hr e (startPhase_goes ha')
    have h := exec_irqHandler (serveInterrupt_pending (ne_reset_of_active hg) hf.symm (by decide) rfl ht) rfl
    rw [h, ← Env.afterCmd_landed hs', ← modeBit_eq, hrw]
    rfl
  · obtain ⟨h1, h2, h3⟩ := hl.write (hw h)
    exact ⟨h1, h2.trans (consumed_dmaScript s _), h3.trans (Env.afterCmd_drawn hs').symm⟩

/-- Settles O42: the next phase is armed, and its command fails. -/
theorem dmaContinuationFails : Obligations.DmaContinuationFails := by
  intro s rw dir codes len bsz next pl hg hf hn hr hc hs ha hcodes hpl hlen hbsz hnext
  obtain ⟨c, hrw, hdir, hw⟩ := direction_of_context hc
  subst hlen hbsz hnext hpl hdir
  obtain ⟨m, ds, k, e, hl⟩ := landDma_settling (s.taken 0x100)
  have hs' : (s.consumed 0x100).cmdScript ≠ [] := by rwa [consumed_cmdScript]
  have answer : (s.settled m ds k).env.cmdAnswer = s.env.cmdAnswer := by
    rw [State.settled, Env.cmdAnswer_landed hs', consumed_cmdAnswer hs]
  have ha' : (s.settled m ds k).env.cmdAnswer.err ≠ 0 := by rwa [answer]
  obtain ⟨m', ds', k', e', hl'⟩ := startPhase_fails (rw := if ctxIsWrite s.h.context then 1 else 0)
    (reg := s.h.nextRegAddr) (buf := s.h.nextDataAddr) (rem := s.h.remainingData) ha'
  have env : (s.settled m ds k).env.afterCmd = { (s.consumed 0x100).afterCmd with dmaScript := ds, drawn := k } :=
    Env.afterCmd_landed hs'
  have flags : ({ (s.consumed 0x100).afterCmd with dmaScript := ds, drawn := k } : Env).flags = (s.consumed 0x100).flags :=
    Env.afterCmd_flags _
  have mask : (s.settled m ds k).h.irqMask &&& ~~~0x13A = s.h.irqMask &&& ~~~0x13A := by
    show s.h.irqMask &&& ~~~0x13A &&& ~~~0x13A = _
    rw [BitVec.and_assoc, BitVec.and_self]
  rw [answer, env, flags, mask] at e'
  refine ⟨m', ds', k', ?_, fun h => ?_, fun a h1 h2 => (hl'.elsewhere a h2).trans (hl.elsewhere a h1)⟩
  · have ht := transferPart_continues c hr e e'
    have h := exec_irqHandler_transfers (ne_reset_of_active hg) hf.symm (by decide) rfl ht
      ((Env.afterCmd_callbackScript _).trans (taken_noCallbacks hn))
    rw [h, ← modeBit_eq, hrw, hcodes]
    rfl
  · obtain ⟨h1, h2, h3⟩ := hl.write (hw h)
    obtain ⟨h4, h5, h6⟩ := hl'.write (hw h)
    have h5 : ds' = ds := h5.trans (congrArg Env.dmaScript env)
    have h6 : k' = k := h6.trans (congrArg Env.drawn env)
    exact ⟨h4.trans h1, h5.trans (h2.trans (consumed_dmaScript s _)),
      h6.trans (h3.trans (Env.afterCmd_drawn hs').symm)⟩

end Sys2Proof.Machine
end

section
/-! A card interrupt together with a transfer cause (O44), and the first phase of a DMA request (O37). -/

namespace Sys2Proof.Machine

/-! ### Both causes in one snapshot (R344) -/

section
variable {s : State} {f : Word} {fns : List Nat} {reads : List PortAction} {h : Handle} {e : Env}

/-- What the dispatcher leaves (R341): the function alone that is enabled, or the functions of the pending byte, or an error. -/
def Dispatches (s : State) (f : Word) (fns : List Nat) (reads : List PortAction) (h : Handle) (e : Env) : Prop :=
  (∃ fn : Fn, fn ≠ 0 ∧ s.h.fnIrqCount = 1 ∧ s.h.fnIrqMask = (1 : Byte) <<< fn.toNat ∧ fns = [fn.toNat] ∧ reads = [] ∧
      h = s.h ∧ e = s.consumed f) ∨
    (2 ≤ s.h.fnIrqCount.toNat ∧ reads = [.cmd 52 0x00000A00] ∧ e = (s.consumed f).afterCmd ∧
      ((s.consumed f).cmdAnswer.err = 0 ∧ h = s.h ∧
          fns = [1, 2, 3, 4, 5, 6, 7].filter (fun k => (s.consumed f).cmdAnswer.resp.getLsbD k) ∨
        (s.consumed f).cmdAnswer.err ≠ 0 ∧ fns = [] ∧
          h = { s.h with lastErrorCodes := s.h.lastErrorCodes ||| errmap (s.consumed f).cmdAnswer.err }))

/-- The state that the dispatcher leaves. -/
def State.dispatched (s : State) (f : Word) (reads : List PortAction) (h : Handle) (e : Env) : State :=
  { s with h := h, env := e, trace := reads ++ .flagClear f :: .flags :: s.trace }

theorem Dispatches.run (d : Dispatches s f fns reads h e) :
    dispatch (s.taken f) = .ok (fns, s.dispatched f reads h e) := by
  rcases d with ⟨fn, -, hc, hm, rfl, rfl, rfl, rfl⟩ | ⟨hc, rfl, rfl, ⟨ha, rfl, rfl⟩ | ⟨ha, rfl, rfl⟩⟩
  · exact dispatch_one hc hm
  · exact dispatch_reads hc (run_ite_pos ha rfl)
  · exact dispatch_reads hc (run_ite_neg ha (run_bind rfl rfl))

/-- The dispatcher writes error bits alone. -/
theorem Dispatches.handle (d : Dispatches s f fns reads h e) : h = { s.h with lastErrorCodes := h.lastErrorCodes } := by
  rcases d with ⟨fn, -, -, -, -, -, rfl, -⟩ | ⟨-, -, -, ⟨-, rfl, -⟩ | ⟨-, -, rfl⟩⟩ <;> rfl

theorem Dispatches.env (d : Dispatches s f fns reads h e) :
    e.callbackScript = s.env.callbackScript ∧ e.dmaScript = s.env.dmaScript := by
  rcases d with ⟨fn, -, -, -, -, -, -, rfl⟩ | ⟨-, -, rfl, -⟩
  · exact ⟨Env.consumed_callbackScript s f, consumed_dmaScript s f⟩
  · exact ⟨(Env.afterCmd_callbackScript _).trans (Env.consumed_callbackScript s f),
      (Env.afterCmd_dmaScript _).trans (consumed_dmaScript s f)⟩

end

/-- Settles O44: the dispatcher, then the transfer part on the state it leaves, then the events. -/
theorem functionEventsComeFirst : Obligations.FunctionEventsComeFirst := by
  intro s f fns reads h e hg hf hs hn hc (d : Dispatches s f fns reads h e)
  have line : flagSet f flSdioit = true := flagSet_eq_true.2 hs
  have h0 : f ≠ 0 := by rintro rfl; exact hs rfl
  have hh := d.handle
  obtain ⟨he1, he2⟩ := d.env
  generalize h.lastErrorCodes = codes₀ at hh
  subst hh
  have c : (s.dispatched f reads { s.h with lastErrorCodes := codes₀ } e).h.dmaFlies := hc
  refine ⟨fun h1 h2 hr => ?_, fun h1 codes hcodes => ?_⟩
  · obtain ⟨m, ds, k, el, hl⟩ := landDma_settling (s.dispatched f reads { s.h with lastErrorCodes := codes₀ } e)
    refine ⟨m, ds, k, ?_, fun c => ?_, hl.elsewhere⟩
    · have ht := transferPart_last c h1 h2 hr el
      rcases hc with hc | hc
      · have hu : (s.dispatched f reads { s.h with lastErrorCodes := codes₀ } e).h.context = 0b1101 := hc
        rw [hu] at ht
        rw [if_pos hc]
        exact exec_irqHandler_serves (ne_reset_of_active hg) hf h0 (run_ite_pos line d.run) ht (he1.trans hn)
      · have hu : (s.dispatched f reads { s.h with lastErrorCodes := codes₀ } e).h.context = 0b1110 := hc
        rw [hu] at ht
        rw [if_neg (by rw [hc]; decide)]
        exact exec_irqHandler_serves (ne_reset_of_active hg) hf h0 (run_ite_pos line d.run) ht (he1.trans hn)
    · obtain ⟨e1, e2, e3⟩ := hl.write c
      exact ⟨e1, e2.trans he2, e3⟩
  · subst hcodes
    obtain ⟨m, ds, k, et, hl⟩ := transferPart_error c h1
    refine ⟨m, ds, k, ?_, fun c => ?_, hl.elsewhere⟩
    · exact exec_irqHandler_serves (ne_reset_of_active hg) hf h0 (run_ite_pos line d.run) et (he1.trans hn)
    · obtain ⟨e1, e2, e3⟩ := hl.write c
      exact ⟨e1, e2.trans he2, e3⟩

/-! ### The first phase (R250 to R254) -/

section
variable {s : State} {i : Instr} {rw : Bit} {ctx : BitVec 4} {dir : Dir} {bm op : Bit} {fn : Fn} {addr : RegAddr}
  {buf size : Word}

/-- The two DMA requests, with their direction (R250, R251). -/
def IsDmaRequest (i : Instr) (rw : Bit) (ctx : BitVec 4) (dir : Dir) (bm op : Bit) (fn : Fn) (addr : RegAddr)
    (buf size : Word) : Prop :=
  i = .readExtDma bm op fn addr buf size ∧ rw = 0 ∧ ctx = 0b1101 ∧ dir = .rd ∨
    i = .writeExtDma bm op fn addr buf size ∧ rw = 1 ∧ ctx = 0b1110 ∧ dir = .wr

/-- The state in which the first phase of a DMA request is started. -/
def State.issuing (s : State) (ctx : BitVec 4) (bm op : Bit) (fn : Fn) : State :=
  { s with
    h := ((s.h.clearErrors.withGlobal .active).withContext ctx).withContDesc ⟨fn, bm, op⟩ }

theorem exec_dma_starts {going : Bool} {t : State} (hi : IsDmaRequest i rw ctx dir bm op fn addr buf size)
    (hq : s.env.irqSchedule = []) (hg : s.h.globalState = .idle) (hx : s.extOk bm buf size) (hb : buf.toNat % 4 = 0)
    (h : startPhase noPoint rw addr buf size (s.issuing ctx bm op fn) = .ok (going, t)) :
    exec i s = .next (t.answered [if going then 0 else 1]) := by
  have good : ¬(extOperandsBad bm s.h.blockSize buf size || dmaMisaligned buf) = true := by
    rw [extOperandsBad_eq_false hx, Bool.false_or, dmaMisaligned_iff]
    exact not_not.2 hb
  have run : dmaBody rw ctx bm op fn addr buf size { s with h := s.h.clearErrors } =
      .ok ((), t.answered [if going then 0 else 1]) :=
    run_get (run_ite_neg good (run_bind rfl (run_bind rfl (run_bind rfl
      (run_bind ((startPhase_quiet (by exact hq) _ _ _ _).trans h) (by cases going <;> rfl))))))
  rcases hi with ⟨rfl, rfl, rfl, -⟩ | ⟨rfl, rfl, rfl, -⟩
  · exact runs_fromIdle hg rfl rfl rfl rfl run
  · exact runs_fromIdle hg rfl rfl rfl rfl run

end

/-- Settles O37: `start_phase` with its two ends. -/
theorem dmaFirstPhase : Obligations.DmaFirstPhase := by
  intro s i rw ctx dir bm op fn addr next buf size len bsz pl acts hq hg hx hb hi hpl hlen hbsz hnext hacts
  have hd : dir = dirOf rw := by
    rcases hi with ⟨-, rfl, -, rfl⟩ | ⟨-, rfl, -, rfl⟩ <;> rfl
  subst hacts hnext hbsz hlen hpl hd
  rw [← modeBit_eq]
  refine ⟨fun he => exec_dma_starts hi hq hg hx hb (startPhase_goes (by exact he)), fun he _ => ?_⟩
  obtain ⟨m, ds, k, e, hl⟩ := startPhase_fails (s := s.issuing ctx bm op fn) (rw := rw) (reg := addr) (buf := buf)
    (rem := size) (by exact he)
  refine ⟨m, ds, k, ?_, fun hw => ?_, fun a ha => hl.elsewhere a fun j hj => ?_⟩
  · rw [exec_dma_starts hi hq hg hx hb e]
    have codes : (s.issuing ctx bm op fn).h.lastErrorCodes ||| errmap s.env.cmdAnswer.err = errmap s.env.cmdAnswer.err :=
      BitVec.zero_or
    have flags : (s.issuing ctx bm op fn).env.afterCmd.flags = s.env.flags := Env.afterCmd_flags _
    rw [show (s.issuing ctx bm op fn).env.cmdAnswer = s.env.cmdAnswer from rfl, codes, flags]
    have idle : GlobalState.idle = s.h.globalState := hg.symm
    rw [idle]
    rfl
  · obtain ⟨h1, h2, h3⟩ := hl.write (show ctx = 0b1110 by
      rcases hi with ⟨-, rfl, -⟩ | ⟨-, -, h, -⟩
      · exact absurd hw (by decide)
      · exact h)
    exact ⟨h1, h2.trans (Env.afterCmd_dmaScript _), h3⟩
  · have hw := hx.2.2
    show a ≠ (buf + BitVec.ofNat 32 j).toNat
    rw [BitVec.toNat_add, BitVec.toNat_ofNat]
    omega

end Sys2Proof.Machine
end

section
/-! A whole DMA request (O45): one phase from the request and one more from each invocation of the handler. -/

namespace Sys2Proof.Machine

/-! ### The flag word while a request is in flight -/

section
variable {s : State} {m : Word}

/-- With the terminal sources enabled and the card interrupt not, data-complete alone is the snapshot. -/
theorem snapshot_complete (hf : s.env.flags &&& 0x13A = 0) (hr : s.env.raised = 0x100)
    (hl : s.h.irqMask &&& 0x00400000 = 0) (ht : s.h.irqMask &&& 0x13A = 0x13A) : s.snapshot &&& 0x0040013A = 0x100 := by
  have mask : s.h.irqMask &&& 0x0040013A = 0x13A := by
    rw [show (0x0040013A : Word) = 0x00400000 ||| 0x13A from rfl, BitVec.and_or_distrib_left, hl, ht]
    rfl
  have raised : (if s.bus.sdioOp then (0x100 : Word) else 0x100 &&& ~~~flSdioit) = 0x100 := by
    cases s.bus.sdioOp <;> rfl
  rw [State.snapshot, BitVec.and_assoc, mask, flagSample, hr, raised, BitVec.and_comm, BitVec.and_or_distrib_left,
    BitVec.and_comm, BitVec.and_assoc, show stickyFlags &&& (0x13A : Word) = 0x13A from rfl, hf]
  rfl

/-- The handler clears what it has consumed, and no other flag was set (R345). -/
theorem consumed_flags (hf : s.env.flags &&& 0x13A = 0) (hr : s.env.raised = 0x100) :
    (s.consumed 0x100).flags &&& 0x13A = 0 := by
  show flagsCleared (s.env.afterSample s.bus.sdioOp).flags 0x100 &&& 0x13A = 0
  have keep : ~~~((0x100 : Word) &&& stickyFlags) &&& 0x13A = 0x3A := rfl
  rw [Env.afterSample_flags, hr, flagsCleared, BitVec.and_assoc, keep, flagSample_and (m := 0x3A) rfl rfl]
  calc s.env.flags &&& 0x3A = s.env.flags &&& 0x13A &&& 0x3A := by rw [BitVec.and_assoc]; rfl
    _ = 0 := by rw [hf]; exact BitVec.zero_and

theorem armed_line (h : m &&& 0x00400000 = 0) : (m ||| 0x13A) &&& 0x00400000 = 0 :=
  (mask_or_other rfl).trans h

theorem rearmed_line (h : m &&& 0x00400000 = 0) : (m &&& ~~~0x13A ||| 0x13A) &&& 0x00400000 = 0 :=
  armed_line ((mask_andNot_other rfl).trans h)

end

/-! ### A request in flight -/

/-- The context of a DMA request (R28). -/
def dmaContext (rw : Bit) : BitVec 4 := if rw = 0 then 0b1101 else 0b1110

theorem dmaContext_cases : ∀ rw : Bit, dmaContext rw = 0b1101 ∧ rw = 0 ∧ dirOf rw = .rd ∨
    dmaContext rw = 0b1110 ∧ rw = 1 ∧ dirOf rw = .wr := by
  decide

/-- A request in flight that has met no error: the phases `ps` are still to be issued, from the register `reg` and the byte
`buf` on, and the environment answers them all. -/
structure InFlight (s : State) (rw bm op : Bit) (fn : Fn) (reg : RegAddr) (buf rem : Word) (ps : List Phase)
    (t : State) : Prop where
  params : t.params = s.params
  slots : t.h.cbRxComplete = s.h.cbRxComplete ∧ t.h.cbTxComplete = s.h.cbTxComplete
  blockSize : t.h.blockSize = s.h.blockSize
  active : t.h.globalState = .active
  context : t.h.context = dmaContext rw
  desc : t.h.contDesc = ⟨fn, bm, op⟩
  registers : t.h.nextRegAddr = reg ∧ t.h.nextDataAddr = buf ∧ t.h.remainingData = rem
  codes : t.h.lastErrorCodes = 0
  line : t.h.irqMask &&& 0x00400000 = 0
  terminal : t.h.irqMask &&& 0x13A = 0x13A
  flags : t.env.flags &&& 0x13A = 0
  samples : ∃ frest, t.env.flagScript = List.replicate (ps.length + 1) 0x100 ++ frest
  answers : ∃ answers crest, t.env.cmdScript = answers ++ crest ∧ answers.length = ps.length ∧ ∀ a ∈ answers, a.err = 0
  callbacks : t.noCallbacks

section
variable {s t : State} {rw bm op : Bit} {fn : Fn} {reg : RegAddr} {buf rem : Word} {ps : List Phase}

theorem InFlight.raised (h : InFlight s rw bm op fn reg buf rem ps t) : t.env.raised = 0x100 := by
  obtain ⟨frest, hs⟩ := h.samples
  exact Env.raised_cons hs

theorem InFlight.snapshot (h : InFlight s rw bm op fn reg buf rem ps t) : t.snapshot &&& 0x0040013A = 0x100 :=
  snapshot_complete h.flags h.raised h.line h.terminal

theorem InFlight.flies (h : InFlight s rw bm op fn reg buf rem ps t) : t.h.dmaFlies := by
  rw [Handle.dmaFlies, h.context, dmaContext]
  split
  · exact .inl rfl
  · exact .inr rfl

/-- The event that ends a request (R255). -/
def doneEvent (rw : Bit) (h : Handle) : Event :=
  if rw = 0 then ⟨.rxComplete, 0, h.cbRxComplete⟩ else ⟨.txComplete, 0, h.cbTxComplete⟩

/-- Nothing left to issue: the next invocation ends the request. -/
theorem InFlight.ends (h : InFlight s rw bm op fn reg buf rem ps t) (hr : rem = 0) :
    ∃ u, exec .irqHandler t = .next u ∧ u.h.globalState = .idle ∧ u.h.context = 0 ∧ u.h.lastErrorCodes = 0 ∧
      u.trace = .respond [0] :: .emit (doneEvent rw s.h) :: .dmaTeardown :: .dpathDisable :: .irqDisable 0x13A ::
        .flagClear 0x100 :: .flags :: t.trace := by
  obtain ⟨m, ds, k, e, -⟩ := landDma_settling (t.taken 0x100)
  have ht := transferPart_last (f := 0x100) (u := t.taken 0x100) h.flies rfl (by decide) (h.registers.2.2.trans hr) e
  refine ⟨_, exec_irqHandler_transfers (ne_reset_of_active h.active) h.snapshot.symm (by decide) rfl ht
    (taken_noCallbacks (f := 0x100) h.callbacks), rfl, rfl, h.codes, ?_⟩
  have event : ∀ k : Handle, k.cbRxComplete = t.h.cbRxComplete → k.cbTxComplete = t.h.cbTxComplete →
      (⟨if ctxIsRead t.h.context then .rxComplete else .txComplete,
        k.eventArg (if ctxIsRead t.h.context then .rxComplete else .txComplete),
        k.slot (if ctxIsRead t.h.context then .rxComplete else .txComplete)⟩ : Event) = doneEvent rw s.h := by
    intro k h1 h2
    rw [h.context, dmaContext, doneEvent, ← h.slots.1, ← h.slots.2, ← h1, ← h2]
    by_cases h0 : rw = 0
    · rw [if_pos h0, if_pos h0]
      rfl
    · rw [if_neg h0, if_neg h0]
      rfl
  exact congrArg (fun v => PortAction.respond [0] :: .emit v :: _) (event _ rfl rfl)

/-- A phase left to issue: the next invocation issues it. -/
theorem InFlight.continues {pl : Phase} (h : InFlight s rw bm op fn reg buf rem (pl :: ps) t) (hr : rem ≠ 0)
    (hpl : pl = phasePlan s.params bm rem s.h.blockSize) :
    ∃ u, exec .irqHandler t = .next u ∧
      InFlight s rw bm op fn (if op = 1 then reg + BitVec.ofNat 17 pl.len else reg) (buf + BitVec.ofNat 32 pl.len)
        (rem - BitVec.ofNat 32 pl.len) ps u ∧
      ∃ bsz, u.trace = .respond [0] :: .irqEnable 0x13A :: .cmd 53 (enc53 rw fn (modeBit pl.mode) op reg pl.count) ::
        .dpathEnable :: .dmaProgram buf (BitVec.ofNat 32 pl.len) ::
        .dpathConfig t.h.dataTimeoutCycles (BitVec.ofNat 32 pl.len) bsz (dirOf rw) pl.mode :: .dmaTeardown ::
        .dpathDisable :: .irqDisable 0x13A :: .flagClear 0x100 :: .flags :: t.trace := by
  obtain ⟨answers, crest, hc, hl, ha⟩ := h.answers
  obtain ⟨a, answers, rfl⟩ := List.exists_cons_of_length_eq_add_one hl
  obtain ⟨ha1, has⟩ := List.forall_mem_cons.1 ha
  obtain ⟨frest, hs⟩ := h.samples
  obtain ⟨hreg, hbuf, hrem⟩ := h.registers
  have hdir : t.h.context = 0b1101 ∧ rw = 0 ∧ dirOf rw = .rd ∨ t.h.context = 0b1110 ∧ rw = 1 ∧ dirOf rw = .wr := by
    rw [h.context]
    exact dmaContext_cases rw
  obtain ⟨m, bytes, k, e, -⟩ := dmaContinues t rw (dirOf rw) _ _ _ pl h.active h.snapshot (by rwa [hrem]) hdir
    (by rw [hc]; exact List.cons_ne_nil _ _) (by rwa [Env.cmdAnswer_cons hc])
    (by rw [h.params, h.desc, hrem, h.blockSize]; exact hpl) rfl rfl rfl
  rw [hreg, hbuf, hrem, h.desc, ← modeBit_eq] at e
  refine ⟨_, e, ⟨h.params, h.slots, h.blockSize, h.active, h.context, h.desc, ⟨rfl, rfl, rfl⟩, h.codes,
    rearmed_line h.line, mask_or_and _ _, ?_, ⟨frest, ?_⟩, ⟨answers, crest, ?_, Nat.succ.inj hl, has⟩, ?_⟩, _, rfl⟩
  · exact (congrArg (· &&& _) (Env.afterCmd_flags _)).trans (consumed_flags h.flags h.raised)
  · exact (Env.afterCmd_flagScript _).trans ((Env.afterSample_flagScript _ _).trans (congrArg List.tail hs))
  · exact (Env.afterCmd_cmdScript _).trans (congrArg List.tail ((consumed_cmdScript t _).trans hc))
  · exact (Env.afterCmd_callbackScript _).trans (taken_noCallbacks (f := 0x100) h.callbacks)

/-- The whole of a request from a phase in flight on, by induction on the phases left. -/
theorem InFlight.runs {fuel : Nat} (hp : s.params.ok = true) (hrem : rem.toNat ≤ fuel)
    (h : InFlight s rw bm op fn reg buf rem (phaseList s.params bm s.h.blockSize fuel rem) t) :
    ∃ t1 u tr, handlerRuns (phaseList s.params bm s.h.blockSize fuel rem).length t = some t1 ∧
      t1.h.globalState = .active ∧ exec .irqHandler t1 = .next u ∧ u.h.globalState = .idle ∧ u.h.context = 0 ∧
      u.h.lastErrorCodes = 0 ∧ u.trace = .respond [0] :: .emit (doneEvent rw s.h) :: (tr ++ t.trace) ∧
      (∀ a ∈ tr, a.isEmit = false) ∧
      tr.reverse.filter PortAction.isPhase =
        phaseActions rw fn op reg buf (phaseList s.params bm s.h.blockSize fuel rem) := by
  induction fuel generalizing reg buf rem t with
  | zero =>
    obtain rfl : rem = 0 := BitVec.eq_of_toNat_eq (Nat.le_zero.1 hrem)
    obtain ⟨u, e, h1, h2, h3, h4⟩ := h.ends rfl
    exact ⟨t, u, [.dmaTeardown, .dpathDisable, .irqDisable 0x13A, .flagClear 0x100, .flags], rfl, h.active, e, h1, h2, h3,
      h4, by decide, rfl⟩
  | succ fuel ih =>
    by_cases h0 : rem = 0
    · subst h0
      rw [phaseList_zero] at h ⊢
      obtain ⟨u, e, h1, h2, h3, h4⟩ := h.ends rfl
      exact ⟨t, u, [.dmaTeardown, .dpathDisable, .irqDisable 0x13A, .flagClear 0x100, .flags], rfl, h.active, e, h1, h2, h3,
        h4, by decide, rfl⟩
    · have one := one_le_phasePlan_len (p := s.params) (bm := bm) (bs := s.h.blockSize) hp h0
      have le := phasePlan_len_le s.params bm rem s.h.blockSize
      rw [phaseList_cons h0] at h ⊢
      generalize hpl : phasePlan s.params bm rem s.h.blockSize = pl at h one le ⊢
      obtain ⟨v, e, hv, bsz, htr⟩ := h.continues h0 hpl.symm
      obtain ⟨t1, u, tr, h1, h2, h3, h4, h5, h6, h7, h8, h9⟩ := ih (by rw [toNat_sub_taken le]; omega) hv
      refine ⟨t1, u, tr ++ [.respond [0], .irqEnable 0x13A, .cmd 53 (enc53 rw fn (modeBit pl.mode) op reg pl.count),
        .dpathEnable, .dmaProgram buf (BitVec.ofNat 32 pl.len),
        .dpathConfig t.h.dataTimeoutCycles (BitVec.ofNat 32 pl.len) bsz (dirOf rw) pl.mode, .dmaTeardown, .dpathDisable,
        .irqDisable 0x13A, .flagClear 0x100, .flags], ?_, h2, h3, h4, h5, h6, ?_, ?_, ?_⟩
      · rw [List.length_cons, handlerRuns, e]
        exact h1
      · rw [h7, htr, List.append_assoc]
        rfl
      · exact List.forall_mem_append.2 ⟨h8, by simp [PortAction.isEmit]⟩
      · rw [List.reverse_append, List.filter_append, h9]
        rfl

end

/-- The request issues its first phase. -/
theorem InFlight.starts {s : State} {i : Instr} {rw bm op : Bit} {fn : Fn} {addr : RegAddr} {buf size : Word} {pl : Phase}
    {ps : List Phase} {answers crest : List CmdAnswer} {frest : List Word}
    (hi : IsDmaRequest i rw (dmaContext rw) (dirOf rw) bm op fn addr buf size) (hq : s.quiet) (hn : s.noCallbacks)
    (hg : s.h.globalState = .idle) (hx : s.extOk bm buf size) (hb : buf.toNat % 4 = 0)
    (hpl : pl = phasePlan s.params bm size s.h.blockSize) (hf : s.env.flags &&& 0x13A = 0)
    (hl : s.h.irqMask &&& 0x00400000 = 0)
    (hfs : s.env.flagScript = List.replicate (pl :: ps).length 0x100 ++ frest) (hcs : s.env.cmdScript = answers ++ crest)
    (hal : answers.length = (pl :: ps).length) (ha : ∀ a ∈ answers, a.err = 0) :
    ∃ t, exec i s = .next t ∧
      InFlight s rw bm op fn (if op = 1 then addr + BitVec.ofNat 17 pl.len else addr) (buf + BitVec.ofNat 32 pl.len)
        (size - BitVec.ofNat 32 pl.len) ps t ∧
      t.trace = .respond [0] :: .irqEnable 0x13A :: .cmd 53 (enc53 rw fn (modeBit pl.mode) op addr pl.count) ::
        .dpathEnable :: .dmaProgram buf (BitVec.ofNat 32 pl.len) ::
        .dpathConfig s.h.dataTimeoutCycles (BitVec.ofNat 32 pl.len) (BitVec.ofNat 32 pl.bsz) (dirOf rw) pl.mode ::
          s.trace := by
  obtain ⟨a, answers, rfl⟩ := List.exists_cons_of_length_eq_add_one hal
  obtain ⟨ha1, has⟩ := List.forall_mem_cons.1 ha
  obtain ⟨first, -⟩ := dmaFirstPhase s i rw _ _ bm op fn addr _ buf size _ _ pl _ hq hg hx hb hi hpl rfl rfl rfl rfl
  have e := first (by rwa [Env.cmdAnswer_cons hcs])
  rw [← modeBit_eq] at e
  refine ⟨_, e, ⟨rfl, ⟨rfl, rfl⟩, rfl, rfl, rfl, rfl, ⟨rfl, rfl, rfl⟩, rfl, armed_line hl, mask_or_and _ _,
    ?_, ⟨frest, ?_⟩, ⟨answers, crest, ?_, Nat.succ.inj hal, has⟩, ?_⟩, rfl⟩
  · exact (congrArg (· &&& _) (Env.afterCmd_flags _)).trans hf
  · exact (Env.afterCmd_flagScript _).trans hfs
  · exact (Env.afterCmd_cmdScript _).trans (congrArg List.tail hcs)
  · exact (Env.afterCmd_callbackScript _).trans hn

/-- Settles O45: the first phase comes from the request, and the others from the handler. -/
theorem dmaDrivesEveryPhase : Obligations.DmaDrivesEveryPhase := by
  intro s i rw bm op fn addr buf size pls done answers crest frest hq hn hg hp hx hb hi hpls hf hl hfs hcs hal ha
  obtain ⟨hdone, req⟩ : done = doneEvent rw s.h ∧ IsDmaRequest i rw (dmaContext rw) (dirOf rw) bm op fn addr buf size := by
    rcases hi with ⟨rfl, rfl, rfl⟩ | ⟨rfl, rfl, rfl⟩
    · exact ⟨rfl, .inl ⟨rfl, rfl, rfl, rfl⟩⟩
    · exact ⟨rfl, .inr ⟨rfl, rfl, rfl, rfl⟩⟩
  obtain ⟨n, hsize⟩ := Nat.exists_eq_add_one_of_ne_zero (fun h => hx.1 (BitVec.eq_of_toNat_eq h))
  have one := one_le_phasePlan_len (p := s.params) (bm := bm) (bs := s.h.blockSize) hp hx.1
  have le := phasePlan_len_le s.params bm size s.h.blockSize
  rw [hsize, phaseList_cons hx.1] at hpls
  generalize hpl : phasePlan s.params bm size s.h.blockSize = pl at hpls one le
  subst hpls hdone
  obtain ⟨t0, e, flying, htr⟩ := InFlight.starts req hq hn hg hx hb hpl.symm hf hl hfs hcs hal ha
  obtain ⟨t1, u, tr, h1, h2, h3, h4, h5, h6, h7, h8, h9⟩ := flying.runs hp (by rw [toNat_sub_taken le]; omega)
  refine ⟨t0, t1, u, tr ++ [.respond [0], .irqEnable 0x13A, .cmd 53 (enc53 rw fn (modeBit pl.mode) op addr pl.count),
    .dpathEnable, .dmaProgram buf (BitVec.ofNat 32 pl.len),
    .dpathConfig s.h.dataTimeoutCycles (BitVec.ofNat 32 pl.len) (BitVec.ofNat 32 pl.bsz) (dirOf rw) pl.mode], e, h1, h2, h3,
    h4, h5, h6, ?_, ?_, ?_⟩
  · rw [h7, htr, List.append_assoc]
    rfl
  · exact List.forall_mem_append.2 ⟨h8, by simp [PortAction.isEmit]⟩
  · rw [List.reverse_append, List.filter_append, h9]
    rfl

end Sys2Proof.Machine
end

section
/-! What the handler leaves alone (O5, O46): it does not look at the request port, uses up no callback, emits nothing before
its end, samples the flags once and sets none. -/

namespace Sys2Proof.Machine

/-! ### The handler after its snapshot -/

/-- What the pieces of the handler after its snapshot leave. -/
structure Served (s t : State) : Prop where
  callbacks : t.env.callbackScript = s.env.callbackScript
  flags : ∀ w, s.env.flags &&& w = 0 → t.env.flags &&& w = 0
  trace : ∃ tr, t.trace = tr ++ s.trace ∧ ∀ a ∈ tr, a ≠ .flags ∧ a.isEmit = false

theorem Served.refl (s : State) : Served s s :=
  ⟨rfl, fun _ h => h, [], rfl, fun _ h => absurd h List.not_mem_nil⟩

theorem Served.trans {s t u : State} (a : Served s t) (b : Served t u) : Served s u := by
  obtain ⟨a1, a2, tr, a3, a4⟩ := a
  obtain ⟨b1, b2, tr', b3, b4⟩ := b
  exact ⟨b1.trans a1, fun w h => b2 w (a2 w h), tr' ++ tr, by rw [b3, a3, List.append_assoc],
    List.forall_mem_append.2 ⟨b4, a4⟩⟩

/-- A step of the handler that does one port action, or none. -/
theorem Served.of_eq {s t : State} (hc : t.env.callbackScript = s.env.callbackScript) (hf : t.env.flags = s.env.flags)
    (tr : List PortAction) (ht : t.trace = tr ++ s.trace) (ha : ∀ a ∈ tr, a ≠ .flags ∧ a.isEmit = false) : Served s t :=
  ⟨hc, fun _ h => by rw [hf, h], tr, ht, ha⟩

/-- The state with other words at its request port. -/
def State.atPort (s : State) (ws : List Word) : State := { s with requests := ws }

/-- A piece of the handler after its snapshot: the request port has no part in it. -/
structure HandlerPart {α : Type} (m : Act α) : Prop where
  blind : ∀ s ws, m (s.atPort ws) = (m s).map fun r => (r.1, r.2.atPort ws)
  served : ∀ s a t, m s = .ok (a, t) → Served s t

namespace HandlerPart

variable {α β : Type}

theorem pure (a : α) : HandlerPart (pure a) :=
  ⟨fun _ _ => rfl, fun s _ _ h => by cases h; exact .refl s⟩

theorem bind {m : Act α} {f : α → Act β} (hm : HandlerPart m) (hf : ∀ a, HandlerPart (f a)) : HandlerPart (m >>= f) := by
  refine ⟨fun s ws => ?_, fun s b u h => ?_⟩
  · rw [bind_apply, bind_apply, hm.blind]
    cases m s with
    | error => rfl
    | ok r => exact (hf r.1).blind r.2 ws
  · rw [bind_apply] at h
    cases e : m s with
    | error => rw [e] at h; cases h
    | ok r =>
      rw [e] at h
      exact (hm.served s r.1 r.2 e).trans ((hf r.1).served r.2 b u h)

theorem upd {f : State → State} (hb : ∀ s ws, f (s.atPort ws) = (f s).atPort ws) (hs : ∀ s, Served s (f s)) :
    HandlerPart (upd f) :=
  ⟨fun s ws => congrArg (fun t => Except.ok ((), t)) (hb s ws), fun s _ _ h => by cases h; exact hs s⟩

theorem updH (f : Handle → Handle) : HandlerPart (updH f) :=
  upd (fun _ _ => rfl) fun _ => .of_eq rfl rfl [] rfl fun _ h => absurd h List.not_mem_nil

/-- A piece that looks at the state, but not at the request port. -/
theorem get {f : State → Act β} (hb : ∀ s ws, f (s.atPort ws) = f s) (hf : ∀ s, HandlerPart (f s)) :
    HandlerPart (get >>= f) := by
  refine ⟨fun s ws => ?_, fun s b u h => (hf s).served s b u h⟩
  show f (s.atPort ws) (s.atPort ws) = _
  rw [hb]
  exact (hf s).blind s ws

theorem ite {c : Prop} [Decidable c] {m n : Act α} (h1 : HandlerPart m) (h2 : HandlerPart n) :
    HandlerPart (if c then m else n) := by
  split
  · exact h1
  · exact h2

theorem stop (f : Fault) : HandlerPart (stop f : Act α) := ⟨fun _ _ => rfl, fun _ _ _ h => nomatch h⟩

/-- A port action that writes no flag word. -/
theorem port {f : State → State} (a : PortAction) (hb : ∀ s ws, f (s.atPort ws) = (f s).atPort ws)
    (hc : ∀ s, (f s).env = s.env) (ht : ∀ s, (f s).trace = a :: s.trace) (ha : a ≠ .flags ∧ a.isEmit = false) :
    HandlerPart (Machine.upd f) :=
  upd hb fun s => .of_eq (by rw [hc]) (by rw [hc]) [a] (ht s) (List.forall_mem_singleton.2 ha)

theorem irqDisable (m : Word) : HandlerPart (portIrqDisable m) :=
  port (.irqDisable m) (fun _ _ => rfl) (fun _ => rfl) (fun _ => rfl) (by simp [PortAction.isEmit])
theorem irqEnable (m : Word) : HandlerPart (portIrqEnable m) :=
  port (.irqEnable m) (fun _ _ => rfl) (fun _ => rfl) (fun _ => rfl) (by simp [PortAction.isEmit])
theorem dpathDisable : HandlerPart portDpathDisable :=
  port .dpathDisable (fun _ _ => rfl) (fun _ => rfl) (fun _ => rfl) (by decide)
theorem dpathEnable : HandlerPart portDpathEnable :=
  port .dpathEnable (fun _ _ => rfl) (fun _ => rfl) (fun _ => rfl) (by decide)
theorem dmaTeardown : HandlerPart portDmaTeardown :=
  port .dmaTeardown (fun _ _ => rfl) (fun _ => rfl) (fun _ => rfl) (by decide)
theorem dpathConfig (t l b : Word) (d : Dir) (m : Mode) : HandlerPart (portDpathConfig t l b d m) :=
  port (.dpathConfig t l b d m) (fun _ _ => rfl) (fun _ => rfl) (fun _ => rfl) (by simp [PortAction.isEmit])
theorem dmaProgram (b l : Word) : HandlerPart (portDmaProgram b l) :=
  port (.dmaProgram b l) (fun _ _ => rfl) (fun _ => rfl) (fun _ => rfl) (by simp [PortAction.isEmit])

theorem flagClear (m : Word) : HandlerPart (portFlagClear m) := by
  refine upd (fun _ _ => rfl) fun s => ⟨rfl, fun w h => ?_, [.flagClear m], rfl, by simp [PortAction.isEmit]⟩
  show s.env.flags &&& _ &&& w = 0
  rw [BitVec.and_assoc, BitVec.and_comm _ w, ← BitVec.and_assoc, h]
  exact BitVec.zero_and

theorem cmd (idx : BitVec 6) (arg : Word) : HandlerPart (portCmd idx arg) := by
  refine ⟨fun _ _ => rfl, fun s _ _ h => ?_⟩
  cases h
  exact .of_eq (Env.afterCmd_callbackScript _) (Env.afterCmd_flags _) [.cmd idx arg] rfl (by simp [PortAction.isEmit])

theorem via {m : Act α} (h : HandlerPart m) : HandlerPart (via noPoint m) := h

theorem landDma (n : Nat) : HandlerPart (landDma n) := by
  refine upd (fun s ws => ?_) fun s => ?_
  · unfold State.atPort
    split <;> rfl
  · obtain ⟨-, ds, k, e⟩ := Env.dmaBytes_spec n s.env
    split
    · dsimp only
      rw [e]
      exact .of_eq rfl rfl [] rfl fun _ h => absurd h List.not_mem_nil
    · exact .refl s

theorem dropDma : HandlerPart (dropDma noPoint) := by
  have : Machine.dropDma noPoint = (do
      let s ← (MonadState.get : Act State)
      if ctxIsDma s.h.context then do
        Machine.via noPoint portDmaTeardown
        Machine.landDma s.h.unsettled
      else Pure.pure ()) := by
    funext s
    show _ = (if ctxIsDma s.h.context then _ else _ : Act Unit) s
    rw [ite_run]
    rfl
  rw [this]
  exact get (fun _ _ => rfl) fun _ => .ite (.bind (.via .dmaTeardown) fun _ => .landDma _) (.pure _)

theorem dmaAbort (code : Word) : HandlerPart (dmaAbort noPoint code) :=
  .bind (.via (.irqDisable _)) fun _ => .bind (.via .dpathDisable) fun _ => .bind (.via .dmaTeardown) fun _ =>
    .get (fun _ _ => rfl) fun _ => .bind (.landDma _) fun _ => .bind (.via (.flagClear _)) fun _ =>
    .bind (.updH _) fun _ => .bind (.updH _) fun _ => .bind (.updH _) fun _ => .updH _

theorem startPhase (rw : Bit) (reg : RegAddr) (buf rem : Word) : HandlerPart (startPhase noPoint rw reg buf rem) :=
  .get (fun _ _ => rfl) fun _ => .bind (.updH _) fun _ => .bind (.via (.dpathConfig _ _ _ _ _)) fun _ =>
    .bind (.via (.dmaProgram _ _)) fun _ => .bind (.via .dpathEnable) fun _ => .bind (.via (.cmd _ _)) fun _ =>
    .ite (.bind (.via (.irqEnable _)) fun _ => .pure _) (.bind (.dmaAbort _) fun _ => .pure _)

theorem dispatch : HandlerPart dispatch :=
  .get (fun _ _ => rfl) fun _ => .ite (.pure _) <| .ite (.pure _) <| .bind (.via (.cmd _ _)) fun _ =>
    .ite (.pure _) (.bind (.updH _) fun _ => .pure _)

theorem onDataError (f : Word) : HandlerPart (onDataError f) :=
  .bind (.irqDisable _) fun _ => .bind .dpathDisable fun _ => .bind .dropDma fun _ => .bind (.updH _) fun _ =>
    .bind (.updH _) fun _ => .bind (.updH _) fun _ => .updH _

theorem onDataComplete : HandlerPart onDataComplete :=
  .get (fun _ _ => rfl) fun _ => .ite
    (.bind (.irqDisable _) fun _ => .bind .dpathDisable fun _ => .bind .dmaTeardown fun _ => .bind (.landDma _) fun _ =>
      .ite (.bind (.updH _) fun _ => .bind (.updH _) fun _ => .pure _) (.bind (.startPhase _ _ _ _) fun _ => .pure _))
    (.stop _)

theorem transferPart (f : Word) : HandlerPart (transferPart f) :=
  .ite (.bind (.onDataError f) fun _ => .pure _) (.ite .onDataComplete (.pure _))

end HandlerPart

/-- The handler after its snapshot (R340): dispatcher and transfer part. -/
def serveRest (f : Word) : Act (List EventKind) := do
  let fns ← (if flagSet f flSdioit then dispatch else pure [] : Act (List Nat))
  let ev ← transferPart f
  pure (fns.map EventKind.fnIrq ++ ev.toList)

theorem HandlerPart.rest (f : Word) : HandlerPart (serveRest f) :=
  .bind (.ite .dispatch (.pure _)) fun _ => .bind (.transferPart f) fun _ => .pure _

section
variable {s t : State} {evs : List EventKind}

theorem serveInterrupt_rest (hg : s.h.globalState ≠ .reset) (h0 : s.snapshot &&& 0x0040013A ≠ 0) :
    serveInterrupt s = serveRest (s.snapshot &&& 0x0040013A) (s.taken (s.snapshot &&& 0x0040013A)) := by
  refine run_get (run_ite_neg hg (run_bind rfl (run_ite_neg h0 (run_bind rfl ?_))))
  unfold serveRest
  rw [flagSet_consumed (m := flSdioit) rfl, transferPart_consumed]
  by_cases hs : flagSet s.snapshot flSdioit = true
  · rw [if_pos hs]
    exact run_ite_pos hs rfl
  · rw [if_neg hs]
    exact run_ite_neg hs rfl

/-- What an invocation of the handler leaves before its events. -/
theorem serveInterrupt_blind (s : State) (ws : List Word) :
    serveInterrupt (s.atPort ws) = (serveInterrupt s).map fun r => (r.1, r.2.atPort ws) := by
  by_cases hg : s.h.globalState = .reset
  · rw [serveInterrupt_reset hg, serveInterrupt_reset (s := s.atPort ws) hg]
    rfl
  · by_cases h0 : s.snapshot &&& 0x0040013A = 0
    · rw [serveInterrupt_nothing hg h0, serveInterrupt_nothing (s := s.atPort ws) hg h0]
      rfl
    · rw [serveInterrupt_rest hg h0, serveInterrupt_rest (s := s.atPort ws) hg h0]
      exact (HandlerPart.rest (s.snapshot &&& 0x0040013A)).blind (s.taken (s.snapshot &&& 0x0040013A)) ws

theorem serveInterrupt_emitless (h : serveInterrupt s = .ok (evs, t)) :
    t.env.callbackScript = s.env.callbackScript ∧ ∃ tr, t.trace = tr ++ s.trace ∧ ∀ a ∈ tr, a.isEmit = false := by
  by_cases hg : s.h.globalState = .reset
  · rw [serveInterrupt_reset hg] at h
    cases h
    exact ⟨rfl, [], rfl, fun _ h => absurd h List.not_mem_nil⟩
  · by_cases h0 : s.snapshot &&& 0x0040013A = 0
    · rw [serveInterrupt_nothing hg h0] at h
      cases h
      exact ⟨Env.afterSample_callbackScript _ _, [.flags], rfl, by decide⟩
    · rw [serveInterrupt_rest hg h0] at h
      obtain ⟨h1, -, tr, h2, h3⟩ := (HandlerPart.rest _).served _ _ _ h
      refine ⟨h1.trans (Env.consumed_callbackScript s _), tr ++ [.flagClear (s.snapshot &&& 0x0040013A), .flags], ?_, ?_⟩
      · rw [h2, List.append_assoc]
        rfl
      · exact List.forall_mem_append.2 ⟨fun a ha => (h3 a ha).2, by simp [PortAction.isEmit]⟩

/-- The entry from the vector: what the handler serves, with the callbacks' words before those at the port. -/
theorem vectorEntry_serves (h : serveInterrupt s = .ok (evs, t)) :
    vectorEntry s = .next { t with
      requests := (t.env.callbackScript.take (evs.countP fun k => t.h.slot k != 0)).flatten.flatMap encode ++ s.requests
      env := { t.env with callbackScript := t.env.callbackScript.drop (evs.countP fun k => t.h.slot k != 0) }
      trace := (evs.map fun k => PortAction.emit ⟨k, t.h.eventArg k, t.h.slot k⟩).reverse ++ t.trace } := by
  have e : serveInterrupt (s.atPort []) = .ok (evs, t.atPort []) := by rw [serveInterrupt_blind, h]; rfl
  have run : takeInterrupt submitToPort (s.atPort []) = _ := run_bind e (emitAll_toPort evs (t.atPort []))
  rw [vectorEntry, show takeInterrupt submitToPort { s with requests := [] } = _ from run]
  rfl

end

/-- Settles O5: with no callback scripted, the events are the same in both, and the rest of the handler does not look at the
request port. -/
theorem vectorEntryIsHandlerWithoutResponse : Obligations.VectorEntryIsHandlerWithoutResponse := by
  intro s q sched hs ht hl hn hi
  have hi' : (s.atPoint q sched).Inv := ⟨hi.handle, hi.memory⟩
  obtain ⟨evs, t, e, ht', hr⟩ := serveInterrupt_inv hi'
  have hn' : t.env.callbackScript = [] := (serveInterrupt_emitless e).1.trans hn
  refine ⟨_, (step_taken hs ht hl).trans (vectorEntry_serves e), ?_, hr⟩
  rw [exec_irqHandler_emits e hn', hn', ← ht'.requests]
  have env : { t.env with callbackScript := [] } = t.env := by rw [← hn']
  rw [List.drop_nil, List.take_nil, env]
  rfl

end Sys2Proof.Machine
end

section
/-! The interrupt request output (O46). -/

namespace Sys2Proof.Machine

section
variable {s : State} {m f : Word}

theorem ne_zero_iff_bit {x : Word} : x ≠ 0 ↔ ∃ k < 32, x.getLsbD k = true := by
  refine ⟨fun h => ?_, fun ⟨k, _, hk⟩ h => ?_⟩
  · by_contra hn
    refine h (BitVec.eq_of_getLsbD_eq fun k hk => ?_)
    rw [show (0 : Word).getLsbD k = false from BitVec.getLsbD_zero]
    exact Bool.eq_false_iff.2 fun hb => hn ⟨k, hk, hb⟩
  · rw [h, show (0 : Word).getLsbD k = false from BitVec.getLsbD_zero] at hk
    exact Bool.false_ne_true hk

theorem irqLine_iff : irqLine s = true ↔ s.env.flags &&& s.h.irqMask ≠ 0 := by
  rw [irqLine, bne_iff_ne]

/-- A mask within the six sources (R331). -/
theorem and_sources (h : m &&& ~~~allSources = 0) : m &&& allSources = m := by
  have all : allSources ||| ~~~allSources = BitVec.allOnes 32 := rfl
  calc m &&& allSources = m &&& allSources ||| m &&& ~~~allSources := by rw [h]; exact BitVec.or_zero.symm
    _ = m := by rw [← BitVec.and_or_distrib_left, all, BitVec.and_allOnes]

theorem sources_eq : allSources = 0x13A ||| 0x00400000 := rfl

/-- With a mask within the six sources the handler consumes its whole snapshot. -/
theorem snapshot_consumed (h : s.h.irqMask &&& ~~~allSources = 0) : s.snapshot &&& 0x0040013A = s.snapshot := by
  rw [State.snapshot, BitVec.and_assoc]
  exact congrArg _ (and_sources h)

/-- What asserts the line is in the next snapshot (R40). -/
theorem line_snapshot (h : s.h.irqMask &&& ~~~allSources = 0) :
    s.env.flags &&& s.h.irqMask &&& s.snapshot = s.env.flags &&& s.h.irqMask := by
  have hm := and_sources h
  refine BitVec.eq_of_getLsbD_eq fun k _ => ?_
  have bit : (s.h.irqMask.getLsbD k && stickyFlags.getLsbD k) = s.h.irqMask.getLsbD k := by
    rw [← BitVec.getLsbD_and]
    exact congrArg (BitVec.getLsbD · k) hm
  rw [State.snapshot, flagSample]
  simp only [BitVec.getLsbD_and, BitVec.getLsbD_or]
  revert bit
  cases s.env.flags.getLsbD k <;> cases s.h.irqMask.getLsbD k <;> cases stickyFlags.getLsbD k <;> simp

/-- What the handler clears is clear (R345). -/
theorem flagsCleared_and (hf : f &&& stickyFlags = f) (held : Word) : flagsCleared held f &&& f = 0 := by
  rw [flagsCleared, hf, BitVec.and_assoc, BitVec.and_comm _ f, BitVec.and_not_self]
  exact BitVec.and_zero

/-- In a sound state the line is a terminal flag of a DMA request, or the card interrupt of an enabled function (R331). -/
theorem line_causes (i : s.Inv) (hl : irqLine s = true) :
    (s.env.flags &&& s.h.irqMask &&& 0x13A ≠ 0 ∧ s.h.globalState = .active) ∨
      (s.env.flags &&& s.h.irqMask &&& 0x00400000 ≠ 0 ∧ s.h.fnIrqCount ≠ 0) := by
  have split : s.env.flags &&& s.h.irqMask =
      s.env.flags &&& s.h.irqMask &&& 0x13A ||| s.env.flags &&& s.h.irqMask &&& 0x00400000 := by
    rw [← BitVec.and_or_distrib_left, ← sources_eq, BitVec.and_assoc, and_sources i.handle.mask_sources]
  have enabled : ∀ w, s.env.flags &&& s.h.irqMask &&& w ≠ 0 → s.h.irqMask &&& w ≠ 0 := by
    intro w h e
    rw [BitVec.and_assoc, e] at h
    exact h BitVec.and_zero
  by_cases ht : s.env.flags &&& s.h.irqMask &&& 0x13A = 0
  · have hs : s.env.flags &&& s.h.irqMask &&& 0x00400000 ≠ 0 := by
      intro e
      rw [ht, e] at split
      exact irqLine_iff.1 hl split
    exact .inr ⟨hs, i.handle.line_count (enabled _ hs)⟩
  · refine .inl ⟨ht, i.handle.context_active fun hc => ?_⟩
    exact enabled _ ht (i.handle.terminal_dma (by rw [hc]; rfl))

end

/-- Settles O46: an entry from the vector clears its snapshot first, and what follows sets no flag. -/
theorem interruptLine : Obligations.InterruptLine := by
  intro s
  refine ⟨?_, line_causes, fun i => line_snapshot i.handle.mask_sources, ?_⟩
  · rw [irqLine_iff, ne_zero_iff_bit]
    simp only [BitVec.getLsbD_and, Bool.and_eq_true]
  · intro q sched u i hs ht hu hl hg
    subst hu
    have i' : (s.atPoint q sched).Inv := ⟨i.handle, i.memory⟩
    obtain ⟨evs, t, e, -⟩ := serveInterrupt_inv i'
    have consumed : (s.atPoint q sched).snapshot &&& 0x0040013A = (s.atPoint q sched).snapshot :=
      snapshot_consumed i.handle.mask_sources
    have h0 : (s.atPoint q sched).snapshot ≠ 0 := by
      intro h
      have := line_snapshot (s := s.atPoint q sched) i.handle.mask_sources
      rw [h] at this
      exact irqLine_iff.1 hl (this.symm.trans BitVec.and_zero)
    have rest := serveInterrupt_rest (s := s.atPoint q sched) hg (by rwa [consumed])
    rw [consumed, e] at rest
    obtain ⟨-, flags, tr, htr, hno⟩ := (HandlerPart.rest _).served _ _ _ rest.symm
    refine ⟨_, (evs.map fun k => PortAction.emit ⟨k, t.h.eventArg k, t.h.slot k⟩).reverse ++ tr,
      (step_taken hs ht hl).trans (vectorEntry_serves e), ?_, ?_, ?_⟩
    · show _ ++ t.trace = _
      rw [htr, List.append_assoc]
      rfl
    · refine List.forall_mem_append.2 ⟨fun a ha => ?_, fun a ha => (hno a ha).1⟩
      obtain ⟨k, -, rfl⟩ := List.mem_map.1 (List.mem_reverse.1 ha)
      exact PortAction.noConfusion
    · refine flags _ (flagsCleared_and ?_ _)
      rw [← consumed, BitVec.and_assoc]
      rfl

end Sys2Proof.Machine
end

section
/-! The requests that callbacks submit (O47). -/

namespace Sys2Proof.Machine

/-! ### One request of a callback (R398, R399) -/

section
variable {s u : State} {i : Instr} {rest : List (List Instr)} {k : EventKind}

theorem foregroundHolds_iff : foregroundHolds s = true ↔
    s.h.globalState = .active ∧ ¬(s.h.context.getLsbD 3 = true ∧ s.h.irqMask &&& 0x13A = 0x13A) := by
  rw [foregroundHolds, Bool.and_eq_true, decide_eq_true_iff, Bool.not_eq_true', ← Bool.not_eq_true, Bool.and_eq_true,
    beq_iff_eq]
  rfl

/-- The state in which the callback of an event runs: the event is given, and its script entry used up. -/
def State.calling (s : State) (k : EventKind) (rest : List (List Instr)) : State :=
  { s with
    env := { s.env with callbackScript := rest }
    trace := .emit ⟨k, s.h.eventArg k, s.h.slot k⟩ :: s.trace }

theorem emit_noop (hk : s.h.slot k = 0) :
    emit submitDuring k s = .ok ((), { s with trace := .emit ⟨k, s.h.eventArg k, 0⟩ :: s.trace }) := by
  exact run_bind rfl (run_get (run_ite_pos hk
    (congrArg (fun v : Word => (Except.ok ((), { s with
      trace := .emit ⟨k, s.h.eventArg k, v⟩ :: s.trace }) : Except Fault (Unit × State))) hk)))

theorem submitDuring_one (i : Instr) (s : State) : submitDuring [i] s = secondRequest i s := by
  rw [submitDuring, bind_apply]
  cases secondRequest i s <;> rfl

/-- A callback of one request does with it what a second request does. -/
theorem emit_submits (hs : s.env.callbackScript = [i] :: rest) (hk : s.h.slot k ≠ 0) :
    emit submitDuring k s = secondRequest i (s.calling k rest) := by
  refine run_bind rfl (run_get (run_ite_neg hk (run_bind rfl ?_)))
  have submission : s.env.submission = [i] := by rw [Env.submission, hs]; rfl
  have after : s.env.afterCallback = { s.env with callbackScript := rest } := by rw [Env.afterCallback, hs]; rfl
  show submitDuring s.env.submission { s with
    env := s.env.afterCallback, trace := .emit ⟨k, s.h.eventArg k, s.h.slot k⟩ :: s.trace } = _
  rw [submission, after, submitDuring_one]
  rfl

theorem secondRequest_held (h : foregroundHolds s = true) : secondRequest i s = .ok ((), s.answered [2]) := if_pos h

theorem secondRequest_reenters (h : foregroundHolds s = false) (hi : refusalOf i ≠ none ∨ accepts i s = true) :
    secondRequest i s = .error .reentrantRequest := by
  have : ((refusalOf i).isSome || accepts i s) = true := by
    rw [Bool.or_eq_true, Option.isSome_iff_ne_none]
    exact hi
  exact (if_neg (Bool.eq_false_iff.1 h)).trans (if_pos this)

theorem secondRequest_busy (h : foregroundHolds s = false) (hr : refusalOf i = none) (ha : accepts i s = false) :
    secondRequest i s = .ok ((), s.answered [2]) := by
  have : ¬((refusalOf i).isSome || accepts i s) = true := by
    rw [hr, ha]
    decide
  exact (if_neg (Bool.eq_false_iff.1 h)).trans (if_neg this)

/-- The state check looks at the handle and the parameters alone. -/
theorem accepts_congr (i : Instr) (hh : u.h = s.h) (hp : u.params = s.params) : accepts i u = accepts i s := by
  have : legalStates i u = legalStates i s := by
    unfold legalStates
    rw [hh, hp]
  rw [accepts, accepts, this, hh]

theorem accepts_calling : accepts i (s.calling k rest) = accepts i s := accepts_congr i rfl rfl
theorem accepts_taken {f : Word} : accepts i (s.taken f) = accepts i s := accepts_congr i rfl rfl
theorem accepts_atPoint {q : IrqPoint} {sched : List IrqPoint} : accepts i (s.atPoint q sched) = accepts i s :=
  accepts_congr i rfl rfl

end

/-! ### The callback of a function's interrupt inside a request -/

section
variable {s : State} {g : Fn} {q : IrqPoint}

/-- The handler with one function's interrupt: its event alone. -/
theorem takeInterrupt_one (hg : s.h.globalState ≠ .reset) (hf : s.snapshot &&& 0x0040013A = 0x00400000)
    (hc : s.h.fnIrqCount = 1) (hm : s.h.fnIrqMask = (1 : Byte) <<< g.toNat) :
    takeInterrupt submitDuring s = emit submitDuring (.fnIrq g.toNat) (s.taken 0x00400000) := by
  refine run_bind (serveInterrupt_pending (u := s.taken 0x00400000) hg hf.symm (by decide)
    (run_ite_pos rfl (dispatch_one hc hm)) (transferPart_none rfl rfl)) ?_
  show (emit submitDuring (.fnIrq g.toNat) >>= fun _ => pure ()) (s.taken 0x00400000) = _
  rw [bind_apply]
  cases emit submitDuring (.fnIrq g.toNat) (s.taken 0x00400000) <;> rfl

/-- An interruption point that is due once and taken. -/
theorem irqPoint_taken (hs : s.env.irqSchedule = [q]) (ht : q.taken = true) (hl : irqLine (s.atPoint q []) = true) :
    irqPoint s = takeInterrupt submitDuring (s.atPoint q []) := by
  rw [irqPoint, hs, irqRun_cons]
  dsimp only
  rw [if_pos ht, if_pos hl]
  cases takeInterrupt submitDuring (s.atPoint q []) <;> rfl

end

section
variable {α β : Type} {s : State} {f : Fault}

theorem run_bind_error {m : Act α} {k : α → Act β} (h : m s = .error f) : (m >>= k) s = .error f := by
  rw [bind_apply, h]

end

/-- Settles O47: at the vector all entries of the script come to the port; under a foreground request one is a second
request, which a callback in `READ_DIRECT` and in `GET_CLOCK_FREQ` and one of the injected handler show. -/
theorem callbackRequests : Obligations.CallbackRequests := by
  refine ⟨fun s q sched i hs ht hl => ?_, fun s u i rest k hs hu => ?_, ?_⟩
  · have i' : (s.atPoint q sched).Inv := ⟨i.handle, i.memory⟩
    obtain ⟨evs, t, e, ht', -⟩ := serveInterrupt_inv i'
    obtain ⟨hc, tr, htr, hno⟩ := serveInterrupt_emitless e
    have hc : t.env.callbackScript = s.env.callbackScript := hc
    have count : ((evs.map fun k => PortAction.emit ⟨k, t.h.eventArg k, t.h.slot k⟩).reverse ++ tr).countP
        PortAction.hasCallback = evs.countP fun k => t.h.slot k != 0 := by
      have none : tr.countP PortAction.hasCallback = 0 := by
        refine List.countP_eq_zero.2 fun a ha => ?_
        have := hno a ha
        cases a <;> first | exact Bool.false_ne_true | cases this
      rw [List.countP_append, none, List.countP_reverse, List.countP_map]
      rfl
    refine ⟨_, (evs.map fun k => PortAction.emit ⟨k, t.h.eventArg k, t.h.slot k⟩).reverse ++ tr, _,
      (step_taken hs ht hl).trans (vectorEntry_serves e), ?_, rfl, ?_, ?_⟩
    · show _ ++ t.trace = _
      rw [htr, ← List.append_assoc]
      rfl
    · rw [count, ← hc]
    · rw [count, ← hc]
      rfl
  · obtain rfl : u = s.calling k rest := hu
    refine ⟨emit_noop, fun hk hh => ?_, fun hk hh => ⟨fun hi => ?_, fun hr ha => ?_⟩⟩
    · rw [emit_submits hs hk]
      exact secondRequest_held (foregroundHolds_iff.2 hh)
    · rw [emit_submits hs hk]
      refine secondRequest_reenters (Bool.eq_false_iff.2 fun h => hh (foregroundHolds_iff.1 h)) ?_
      rwa [accepts_calling]
    · rw [emit_submits hs hk]
      refine secondRequest_busy (Bool.eq_false_iff.2 fun h => hh (foregroundHolds_iff.1 h)) hr ?_
      rwa [accepts_calling]
  · intro s u i rest fn g raw addr q e ev hg hctx hs h0 hcb hc hm hev
    subst hev
    have notReset : s.h.globalState ≠ .reset := by rw [hg]; decide
    have notHeld : ∀ v : State, v.h = s.h → foregroundHolds v = false := fun v hv =>
      Bool.eq_false_iff.2 fun h => by
        have := (foregroundHolds_iff.1 h).1
        rw [hv, hg] at this
        cases this
    have script : ∀ v : State, v.env.callbackScript = s.env.callbackScript →
        (v.taken 0x00400000).env.callbackScript = [i] :: rest := fun v hv =>
      (Env.consumed_callbackScript v _).trans (hv.trans hs)
    refine ⟨fun hq ht hu hl hf he => ?_, fun hf => ?_⟩
    · subst hu he
      refine ⟨fun ha => ?_, fun hi => ?_⟩
      · obtain ⟨w, hw⟩ : ∃ w : State, w = State.atPoint { s with h := s.h.clearErrors.withGlobal .active } q [] :=
          ⟨_, rfl⟩
        have held : foregroundHolds ((w.taken 0x00400000).calling (.fnIrq g.toNat) rest) = true := by
          subst hw
          refine foregroundHolds_iff.2 ⟨rfl, fun h => ?_⟩
          have h3 : s.h.context.getLsbD 3 = true := h.1
          rw [hctx] at h3
          cases h3
        have one : takeInterrupt submitDuring w = emit submitDuring (.fnIrq g.toNat) (w.taken 0x00400000) := by
          subst hw
          exact takeInterrupt_one GlobalState.noConfusion hf hc hm
        have point : irqPoint { s with h := s.h.clearErrors.withGlobal .active } = .ok ((),
            ((w.taken 0x00400000).calling (.fnIrq g.toNat) rest).answered [2]) := by
          rw [irqPoint_taken (by exact hq) ht (by exact hl), ← hw, one,
            emit_submits (script w (by rw [hw]; rfl)) (by rw [hw]; exact hcb)]
          exact secondRequest_held held
        subst hw
        refine runs_fromIdle hg rfl rfl rfl rfl (run_bind rfl (run_bind (run_bind point rfl) (run_ite_pos ha ?_)))
        rw [← byte_setWidth]
        exact run_idleOk (h := s.h.clearErrors) (Handle.idle_cleared hg) _
      · have point : irqPoint s = .error .reentrantRequest := by
          rw [irqPoint_taken hq ht hl, takeInterrupt_one (s := s.atPoint q []) (g := g) notReset hf hc hm,
            emit_submits (script (s.atPoint q []) rfl) (by exact hcb)]
          refine secondRequest_reenters (notHeld _ rfl) ?_
          rwa [accepts_calling, accepts_taken, accepts_atPoint]
        refine (request_runs_unchanged (i := .getClockFreq) rfl (by simp [legalStates, hg]) rfl).trans (finish_error ?_)
        exact run_bind_error (run_bind_error point)
    · have legal : s.h.globalState ∈ legalStates .irqHandler s := by simp [legalStates, hg]
      have taken : takeInterrupt submitDuring s = secondRequest i ((s.taken 0x00400000).calling (.fnIrq g.toNat) rest) := by
        rw [takeInterrupt_one (g := g) notReset hf hc hm, emit_submits (script s rfl) (by exact hcb)]
      refine ⟨fun hi => ?_, fun hr ha => ?_⟩
      · refine (request_runs_unchanged (i := .irqHandler) rfl legal rfl).trans (finish_error (run_bind_error ?_))
        rw [taken]
        refine secondRequest_reenters (notHeld _ rfl) ?_
        rwa [accepts_calling, accepts_taken]
      · refine (request_runs_unchanged (i := .irqHandler) rfl legal rfl).trans (finish_ok (run_bind (taken.trans
          (secondRequest_busy (notHeld _ rfl) hr ?_)) rfl))
        rwa [accepts_calling, accepts_taken]

end Sys2Proof.Machine
end

section
/-! The statement on identification whatever the card answers (O22): no interruption point is due and no callback submits a
request, and so the handle is known exactly at each piece of the sequence. -/

namespace Sys2Proof.Machine

/-- Nothing interrupts, no callback submits a request, and handle and memory are `h` and `m`. -/
structure Held (h : Handle) (m : Memory) (t : State) : Prop where
  quiet : t.env.irqSchedule = []
  callbacks : t.noReentry
  h : t.h = h
  mem : t.mem = m

/-- A port action that leaves the handle, memory and what the environment has scripted of interrupts and callbacks. -/
def Inert {α : Type} (p : Act α) : Prop := ∀ s, ∃ a t, p s = .ok (a, t) ∧ t.h = s.h ∧ t.mem = s.mem ∧
  t.env.irqSchedule = s.env.irqSchedule ∧ t.env.callbackScript = s.env.callbackScript

theorem inert_portCmd (idx : BitVec 6) (arg : Word) : Inert (portCmd idx arg) := fun _ =>
  ⟨_, _, rfl, rfl, rfl, by simp, by simp⟩
theorem inert_portBusConfig (v : BitVec 2) (a b c : Bit) (d : Word) : Inert (portBusConfig v a b c d) := fun _ =>
  ⟨_, _, rfl, rfl, rfl, rfl, rfl⟩
theorem inert_portBusPower (on : Bool) : Inert (portBusPower on) := fun _ => ⟨_, _, rfl, rfl, rfl, rfl, rfl⟩
theorem inert_portDelayMs (n : Nat) : Inert (portDelayMs n) := fun _ => ⟨_, _, rfl, rfl, rfl, rfl, rfl⟩
theorem inert_portDelayCycles (n ms : Nat) : Inert (portDelayCycles n ms) := fun _ => ⟨_, _, rfl, rfl, rfl, rfl, rfl⟩
theorem inert_defaultDiv (k : Word) : Inert (defaultDiv k) := fun _ => ⟨_, _, rfl, rfl, rfl, rfl, rfl⟩
theorem inert_settleWait (k : Word) : Inert (settleWait k) := fun _ => ⟨_, _, rfl, rfl, rfl, rfl, rfl⟩

/-- A callback that submits no request is no more than its event and an entry of the script (R297). -/
theorem inert_emit (k : EventKind) {s : State} (hn : s.noReentry) :
    ∃ t, emit submitDuring k s = .ok ((), t) ∧ t.h = s.h ∧ t.mem = s.mem ∧
      t.env.irqSchedule = s.env.irqSchedule ∧ t.noReentry := by
  by_cases hk : s.h.slot k = 0
  · exact ⟨_, run_bind rfl (run_get (run_ite_pos hk rfl)), rfl, rfl, rfl, hn⟩
  · have none : s.env.submission = [] := by
      unfold Env.submission
      cases hs : s.env.callbackScript with
      | nil => rfl
      | cons rs _ => exact hn rs (by simp [hs])
    have run : ∀ u : State, submitDuring s.env.submission u = .ok ((), u) := fun u => by
      rw [none]
      exact submitDuring_nil u
    refine ⟨_, run_bind rfl (run_get (run_ite_neg hk (run_bind rfl (run _)))), rfl, rfl, rfl, fun rs hrs => ?_⟩
    exact hn rs (List.mem_of_mem_tail hrs)

section
variable {α : Type} {E : Fault → Prop} {h : Handle} {m : Memory}

theorem held_updH (f : Handle → Handle) : Triple E (Held h m) (updH f) fun _ => Held (f h) m :=
  .updH fun _ hs => ⟨hs.quiet, hs.callbacks, congrArg f hs.h, hs.mem⟩

theorem held_inert {p : Act α} (hp : Inert p) : Triple E (Held h m) p fun _ => Held h m := by
  intro s ⟨hq, hn, hh, hm⟩
  obtain ⟨a, t, e, th, tm, ti, tc⟩ := hp s
  rw [e]
  exact ⟨ti.trans hq, fun rs hrs => hn rs (tc ▸ hrs), th.trans hh, tm.trans hm⟩

theorem held_point {p : Act α} {Q : α → State → Prop} (hp : Triple E (Held h m) p Q) :
    Triple E (Held h m) (via irqPoint p) Q := fun s hs => by
  rw [via_quiet p hs.quiet]
  exact hp s hs

theorem held_via {p : Act α} (hp : Inert p) : Triple E (Held h m) (via irqPoint p) fun _ => Held h m :=
  held_point (held_inert hp)

theorem held_emit (k : EventKind) : Triple E (Held h m) (emit submitDuring k) fun _ => Held h m := by
  intro s ⟨hq, hn, hh, hm⟩
  obtain ⟨t, e, th, tm, ti, tn⟩ := inert_emit k hn
  rw [e]
  exact ⟨ti.trans hq, tn, th.trans hh, tm.trans hm⟩

/-- A command, whose error code is what the card answers (R361). -/
theorem held_cmd (idx : BitVec 6) (arg : Word) : Triple E (Held h m) (via irqPoint (portCmd idx arg)) fun _ => Held h m :=
  held_via (inert_portCmd idx arg)

/-- Where no fault is allowed there is a result. -/
theorem Triple.total {P : State → Prop} {p : Act α} {Q : α → State → Prop} {s : State}
    (hp : Triple (fun _ => False) P p Q) (hs : P s) : ∃ a t, p s = .ok (a, t) ∧ Q a t := by
  have hr := hp s hs
  cases e : p s with
  | ok r =>
    rw [e] at hr
    exact ⟨r.1, r.2, rfl, hr⟩
  | error f =>
    rw [e] at hr
    exact hr.elim

/-! ### The sequence (R130 to R145) -/

/-- How the identification ends of a handle: the card selected and no error recorded, or `CardRemoved` and some (R141, R142). -/
def IdentHeld (h : Handle) (m : Memory) : Bool → State → Prop
  | true => Held (h.withIdent .selected) m
  | false => fun t => ∃ c, c ≠ 0 ∧ Held (((h.orErrors (errmap c)).withIdent .powerOff).withGlobal .cardRemoved) m t

theorem IdentHeld.of_withIdent {x : IdentState} {b : Bool} {t : State} (ht : IdentHeld (h.withIdent x) m b t) :
    IdentHeld h m b t := by
  cases b <;> exact ht

theorem identFail_held {err : Word} (he : err ≠ 0) : Triple E (Held h m) (identFail err) (IdentHeld h m) :=
  .bind (held_updH _) fun _ => .bind (held_updH _) fun _ => .bind (held_updH _) fun _ => .pure fun _ ht => ⟨err, he, ht⟩

theorem identPower_held (k : Word) : Triple E (Held h m) (identPower k) fun _ t =>
    ∃ d, Held ((h.withIdent .powerOff).withCfg (Cfg.default d)) m t :=
  .bind (held_updH _) fun _ => .bind (held_inert (inert_defaultDiv k)) fun d =>
    .bind (held_via (inert_portBusConfig _ _ _ _ _)) fun _ => .bind (held_updH _) fun _ =>
    .bind (held_via (inert_portBusPower _)) fun _ => .bind (held_inert (inert_settleWait k)) fun _ =>
    .get fun _ _ => (held_via (inert_portDelayCycles _ _)).mono fun _ _ ht => ⟨d, ht⟩

theorem identCmd_held (idx : BitVec 6) (arg : Word) {next : Word → Act Bool}
    (hn : ∀ r, Triple E (Held h m) (next r) (IdentHeld h m)) :
    Triple E (Held h m) (identCmd idx arg next) (IdentHeld h m) :=
  .bind (held_cmd idx arg) fun _ => .ite (fun _ => hn _) identFail_held

theorem identVoltage_held (r2 : Word) {next : Act Bool} (hn : Triple E (Held h m) next (IdentHeld h m)) :
    Triple E (Held h m) (identVoltage r2 next) (IdentHeld h m) :=
  .ite (fun _ => identCmd_held _ _ fun _ => .get fun _ _ =>
    .ite (fun _ => .bind (held_point (held_emit _)) fun _ => hn) fun _ => hn) fun _ => hn

theorem identSecond_held (r : Word) {next : Act Bool} (hn : Triple E (Held h m) next (IdentHeld h m)) :
    Triple E (Held h m) (identSecond r next) (IdentHeld h m) :=
  .ite (fun _ => hn) fun _ => .get fun _ _ => identCmd_held _ _ fun _ => identVoltage_held _ hn

theorem identSelect_held (rca : BitVec 16) : Triple E (Held h m) (identSelect rca) (IdentHeld h m) :=
  identCmd_held _ _ fun _ => .bind (held_updH _) fun _ => .pure fun _ => id

theorem identRca_held : ∀ n, Triple E (Held h m) (identRca n) (IdentHeld h m)
  | 0 => identFail_held (by decide)
  | n + 1 => .bind (held_cmd _ _) fun _ => .ite
      (fun _ => .bind (held_updH _) fun _ =>
        (identSelect_held (h := h.withIdent .addressAssigned) _).mono fun _ _ => .of_withIdent)
      fun he => .ite (fun _ => identFail_held he) fun _ => .ite (fun _ => identFail_held he) fun _ =>
        .bind (held_via (inert_portDelayMs _)) fun _ => identRca_held n

theorem identAddress_held : Triple E (Held h m) identAddress (IdentHeld h m) :=
  .bind (held_updH _) fun _ => .get fun _ _ =>
    (identRca_held (h := h.withIdent .voltageNegotiated) _).mono fun _ _ => .of_withIdent

theorem ident_held (k : Word) : Triple E (Held h m) (ident k) fun b t =>
    ∃ d, IdentHeld (h.withCfg (Cfg.default d)) m b t :=
  .bind (identPower_held k) fun _ => .of_exists fun d =>
    (identCmd_held cmdGoIdle 0 fun _ => identCmd_held cmdOpCond 0 fun r => identSecond_held r identAddress_held).mono
      fun _ _ ht => ⟨d, IdentHeld.of_withIdent (h := h.withCfg (Cfg.default d)) (x := .powerOff) ht⟩

end

/-! ### The configuration (R170, R178) -/

/-- The settings that a configuration leaves: the context, the callbacks, the block size, the timeout, the identity. -/
structure SameSettings (h h' : Handle) : Prop where
  context : h'.context = h.context
  fnCb : h'.fnCb = h.fnCb
  rxComplete : h'.cbRxComplete = h.cbRxComplete
  txComplete : h'.cbTxComplete = h.cbTxComplete
  error : h'.cbError = h.cbError
  transceiver : h'.cbTransceiver = h.cbTransceiver
  blockSize : h'.blockSize = h.blockSize
  timeout : h'.dataTimeoutCycles = h.dataTimeoutCycles
  instanceId : h'.instanceId = h.instanceId

/-- The two ends of a configuration of the handle `h` with the configuration `c`. -/
def Configured (h : Handle) (m : Memory) (c : Cfg) (t : State) : Prop :=
  (t.response = [0] ∧ t.h.globalState = .idle ∧ t.h.identState = .selected ∧ t.h.lastErrorCodes = 0 ∧ t.h.cfg = c ∨
    t.response = [1] ∧ t.h.globalState = .cardRemoved ∧ t.h.identState = .powerOff ∧ t.h.lastErrorCodes ≠ 0 ∧
      ∃ d, t.h.cfg = ⟨0, 0, 0, 0, d, 400000⟩) ∧
  SameSettings h t.h ∧ t.mem = m

section
variable {s : State} {h : Handle} {m : Memory} {w : BitVec 2} {e p hw : Bit} {d hz : Word}

theorem errors_ne_zero {c x : Word} (hc : c ≠ 0) (hx : x = 0) : x ||| errmap c ≠ 0 := by
  subst hx
  rw [show (0 : Word) ||| errmap c = errmap c from BitVec.zero_or]
  exact errmap_ne_zero hc

/-- The card was not found (R142, R143). -/
theorem configureFound_missing {d0 : Word} (hs : IdentHeld (h.withCfg (Cfg.default d0)) m false s)
    (he : h.lastErrorCodes = 0) :
    ∃ t, configureFound hw p e w d hz false s = .ok ((), t) ∧ Configured h m ⟨w, e, p, hw, d, hz⟩ t := by
  obtain ⟨c, hc, -, -, hh, hm⟩ := hs
  refine ⟨_, run_ite_neg Bool.false_ne_true rfl, .inr ?_, ?_, hm⟩
  · show _ ∧ s.h.globalState = _ ∧ s.h.identState = _ ∧ s.h.lastErrorCodes ≠ _ ∧ ∃ d, s.h.cfg = _
    rw [hh]
    exact ⟨rfl, rfl, rfl, errors_ne_zero hc he, d0, rfl⟩
  · show SameSettings h s.h
    rw [hh]
    constructor <;> rfl

/-- The card was found: its width register is written, and where that fails the card is given up (R170, R171). -/
theorem configureFound_present {d0 : Word} (hs : IdentHeld (h.withCfg (Cfg.default d0)) m true s)
    (he : h.lastErrorCodes = 0) (hx : h.context = 0) :
    ∃ t, configureFound hw p e w d hz true s = .ok ((), t) ∧ Configured h m ⟨w, e, p, hw, d, hz⟩ t := by
  obtain ⟨hq, -, hh, hm⟩ := hs
  by_cases hc : s.env.cmdAnswer.err = 0
  · refine ⟨_, run_ite_pos rfl (run_bind (run_via hq rfl) (run_bind rfl (run_wr52 hq (run_ite_pos hc rfl)))), ?_⟩
    refine ⟨.inl ?_, ?_, hm⟩
    · show _ ∧ _ ∧ s.h.identState = _ ∧ s.h.lastErrorCodes = _ ∧ _
      rw [hh]
      exact ⟨rfl, rfl, rfl, he, rfl⟩
    · show SameSettings h ((s.h.withCfg _).withGlobal _)
      rw [hh]
      constructor <;> rfl
  · obtain ⟨d1, m1, bytes, k, n, env, -, run, -, -, landed⟩ := toCardRemoved_quiet (s := { s with
        h := (s.h.withCfg ⟨w, e, p, hw, d, hz⟩).orErrors (errmap s.env.cmdAnswer.err)
        bus := { s.bus with width := w, edge := e, psave := p, hwfc := hw, div := d }
        env := s.env.afterCmd
        trace := .cmd cmdDirect (enc52 1 0 0 cccrBusIf (cardWidth w)) :: .busConfig w e p hw d :: s.trace })
      (Env.quiet_afterCmd hq)
    have context : s.h.context = 0 := by rw [hh]; exact hx
    refine ⟨_, run_ite_pos rfl (run_bind (run_via hq rfl) (run_bind rfl (run_wr52 hq (run_ite_neg hc
      (run_bind rfl (run_bind run rfl)))))), .inr ?_, ?_, ?_⟩
    · show _ ∧ _ ∧ _ ∧ s.h.lastErrorCodes ||| errmap _ ≠ _ ∧ _
      rw [hh]
      exact ⟨rfl, rfl, rfl, errors_ne_zero hc he, d1, rfl⟩
    · have same : SameSettings h s.h := by
        rw [hh]
        constructor <;> rfl
      exact ⟨hx.symm, same.fnCb, same.rxComplete, same.txComplete, same.error, same.transceiver, same.blockSize,
        same.timeout, same.instanceId⟩
    · refine (landed.same fun hd => ?_).1.trans hm
      have h3 : s.h.context.getLsbD 3 = true := hd.1
      rw [context] at h3
      exact absurd h3 (by decide)

end

/-- Settles O22: the identification ends with the card selected or given up, and so does the configuration after it. -/
theorem configureEndsIdleOrRemoved : Obligations.ConfigureEndsIdleOrRemoved := by
  intro s i hw p e w hz hq hn hi hx h3 h0 hk hd
  have start : Held s.h.clearErrors s.mem (State.clocked { s with h := s.h.clearErrors }) :=
    ⟨Env.quiet_afterClock hq, fun rs hrs => hn rs (by simpa [State.clocked] using hrs), rfl, rfl⟩
  obtain ⟨found, u, run, d0, hu⟩ := (ident_held s.env.clock).total start
  obtain ⟨t, ht, ends, same, hm⟩ : ∃ t, configureFound hw p e w (BitVec.ofNat 32 (s.env.clock.toNat / (2 * hz.toNat))) hz
      found u = .ok ((), t) ∧
      Configured s.h.clearErrors s.mem ⟨w, e, p, hw, BitVec.ofNat 32 (s.env.clock.toNat / (2 * hz.toNat)), hz⟩ t := by
    cases found with
    | false => exact configureFound_missing hu rfl
    | true => exact configureFound_present hu rfl hx
  refine ⟨t, exec_configures hi (run_ite_neg (widthOk_iff.not.2 h3) ?_), ends, same.context.trans hx, hm, same.fnCb,
    same.rxComplete, same.txComplete, same.error, same.transceiver, same.blockSize, same.timeout, same.instanceId⟩
  exact withDivider_goes (s := { s with h := s.h.clearErrors }) hq h0 hk hd (run_bind run ht)

end Sys2Proof.Machine
end
